-- ==== Sys2Proof/Word.lean ====
section
/-!
DEFINITION. The word types of the display codec block (00_scope.md R6, R7): an operation word is 16 bits,
a Time Record field, result byte or frame byte is 8 bits, a digit is 4 bits. All values are unsigned (R7).
-/

namespace Sys2Proof

/-- An operation word `w[15:0]` (30_encoding.md R71). -/
abbrev Word := BitVec 16

/-- A byte, 0x00 to 0xFF (R7; the parameter `W` of R6 is fixed at 8). -/
abbrev Byte := BitVec 8

/-- A nibble, 0x0 to 0xF (R7). -/
abbrev Nibble := BitVec 4

end Sys2Proof
end

