-- ==== Sys2Proof/Syntax.lean ====
section
/-!
DEFINITION. The operations of the block: the fixed sets of names its operands range over (10_state.md R21, R23), one
constructor of `Instr` per row of spec/opcode_table.json (30_encoding.md R74), the reasons for which a word is refused
(R75), the two agents (00_scope.md R5), and the assembler lines with the pseudo-operations (R77, R78).
-/

namespace Sys2Proof

/-- The seven Time Record fields (10_state.md R21). -/
inductive TrField where
  | second
  | minute
  | hour
  | dayOfWeek
  | date
  | month
  | year
deriving DecidableEq, Repr

/-- The five editable fields, in the source's cyclic order (10_state.md R23). -/
inductive Field where
  | month
  | day
  | year
  | hour
  | minute
deriving DecidableEq, Repr

/-- `CTL.mode` (10_state.md R23). -/
inductive Mode where
  | run
  | set
deriving DecidableEq, Repr

/-- `CTL.view`, and the view a render pass emits (10_state.md R23, 42_display.md R161). -/
inductive View where
  | time
  | date
deriving DecidableEq, Repr

/-- The operations. Every operand type holds exactly the values the encoding admits (R73), so that no ill-formed
operation can be written down. -/
inductive Instr where
  | toBcd (n : Byte)
  | decSec (b : Byte)
  | decMin (b : Byte)
  | decHour (b : Byte)
  | decDow (b : Byte)
  | decDate (b : Byte)
  | decMonth (b : Byte)
  | decYear (b : Byte)
  | encMonth (v : Byte)
  | encDay (v : Byte)
  | encYear (v : Byte)
  | encHour (v : Byte)
  | encMinute (v : Byte)
  | tick
  | render
  | renderDate
  | renderDateOvlMonth
  | renderDateOvlDay
  | renderDateOvlYear
  | renderDateOvlHour
  | renderDateOvlMinute
  | renderTime
  | renderTimeOvlMonth
  | renderTimeOvlDay
  | renderTimeOvlYear
  | renderTimeOvlHour
  | renderTimeOvlMinute
  | setTrSec (b : Byte)
  | setTrMin (b : Byte)
  | setTrHour (b : Byte)
  | setTrDow (b : Byte)
  | setTrDate (b : Byte)
  | setTrMonth (b : Byte)
  | setTrYear (b : Byte)
  | setCtlMonth (view : View) (mode : Mode)
  | setCtlDay (view : View) (mode : Mode)
  | setCtlYear (view : View) (mode : Mode)
  | setCtlHour (view : View) (mode : Mode)
  | setCtlMinute (view : View) (mode : Mode)
deriving DecidableEq, Repr

/-- Why a word spells no operation (30_encoding.md R75, 60_exceptions.md R222). -/
inductive RefusalReason where
  | rsvOpcode
  | rsvBits
  | rsvSel
  | rsvField
deriving DecidableEq, Repr

/-- The two agents (00_scope.md R5). -/
inductive Agent where
  | host
  | tick
deriving DecidableEq, Repr

/-- One line of the spec's assembler (30_encoding.md R77), the pseudo-operations of R78 among them. Numbers are as
written, so a line can be ill-formed: `Line.wellFormed` holds the checks. -/
inductive Line where
  | toBcd (n : Nat)
  | dec (f : TrField) (b : Nat)
  | enc (f : Field) (v : Nat)
  | tick
  | render
  | renderDate (ovl : Option Field)
  | renderTime (ovl : Option Field)
  | setTr (i b : Nat)
  | setCtl (mode : Mode) (f : Field) (view : View)
  | ticks (k : Nat)
  | loadTr (s mi h dw dt mo y : Nat)
  | sentinels
deriving DecidableEq, Repr

/-- The index of a Time Record field (10_state.md R21): its address in the Time Record space, and its `sel`. -/
def TrField.index : TrField → Nat
  | .second => 0
  | .minute => 1
  | .hour => 2
  | .dayOfWeek => 3
  | .date => 4
  | .month => 5
  | .year => 6

/-- The field code (10_state.md R23). -/
def Field.code : Field → BitVec 3
  | .month => 0
  | .day => 1
  | .year => 2
  | .hour => 3
  | .minute => 4

/-- The mode's bit: 0 Run, 1 Set (10_state.md R23). -/
def Mode.bit : Mode → BitVec 1
  | .run => 0
  | .set => 1

/-- The view's bit: 1 date, 0 time (10_state.md R23). -/
def View.bit : View → BitVec 1
  | .time => 0
  | .date => 1

/-- The code of a refusal reason (60_exceptions.md R222). -/
def RefusalReason.code : RefusalReason → Nat
  | .rsvOpcode => 1
  | .rsvBits => 2
  | .rsvSel => 3
  | .rsvField => 4

/-- The agent an operation belongs to: TICK is the tick agent's alone, every other the host's (60_exceptions.md R229). -/
def Instr.agent (i : Instr) : Agent := if i = .tick then .tick else .host

end Sys2Proof
end

