-- ==== Sys2Proof/WellFormed.lean ====
section
/-!
DEFINITION. Which terms of the syntax may be executed. An `Instr` is well-formed by its types: a byte operand has every
value of a byte, a field or selector is one of the names R74 defines (30_encoding.md R73, R74), so it needs no check. An
assembler line carries numbers as written, and R77 and R78 restrict them: each must fit in 8 bits, a SET_TR index is 0..6,
and TICKS repeats at least once.
-/

namespace Sys2Proof

/-- R77: each number must fit in 8 bits. -/
def fitsByte (n : Nat) : Bool := decide (n < 256)

/-- The checks of R77 and R78 on an assembler line. -/
def Line.wellFormed : Line → Bool
  | .toBcd n => fitsByte n
  | .dec _ b => fitsByte b
  | .enc _ v => fitsByte v
  | .tick => true
  | .render => true
  | .renderDate _ => true
  | .renderTime _ => true
  | .setTr i b => decide (i < 7) && fitsByte b
  | .setCtl _ _ _ => true
  | .ticks k => decide (1 ≤ k)
  | .loadTr s mi h dw dt mo y =>
    fitsByte s && fitsByte mi && fitsByte h && fitsByte dw && fitsByte dt && fitsByte mo && fitsByte y
  | .sentinels => true

end Sys2Proof
end

