-- ==== Sys2Proof/Decode.lean ====
section
/-!
DEFINITION. The decoder, total on 16-bit words and refusing by reason (30_encoding.md R75, R76), and the encoder written
from the formats and the opcode map (R72, R74). Decoding reads no state (R76).
-/

namespace Sys2Proof

/-- The operation class `op = w[15:12]` (R71). -/
def opOf (w : Word) : Nibble := w.extractLsb' 12 4

/-- `imm8 = w[7:0]` (R73). -/
def imm8Of (w : Word) : Byte := w.extractLsb' 0 8

/-- `sel = w[10:8]` (R73). -/
def selOf (w : Word) : BitVec 3 := w.extractLsb' 8 3

/-- The Time Record field a `sel` names, none for 7 (R73). -/
def trFieldOf (sel : BitVec 3) : Option TrField :=
  match sel.toNat with
  | 0 => some .second
  | 1 => some .minute
  | 2 => some .hour
  | 3 => some .dayOfWeek
  | 4 => some .date
  | 5 => some .month
  | 6 => some .year
  | _ => none

/-- The field a field code names, none for 5..7 (R73, 10_state.md R23). -/
def fieldOf (code : BitVec 3) : Option Field :=
  match code.toNat with
  | 0 => some .month
  | 1 => some .day
  | 2 => some .year
  | 3 => some .hour
  | 4 => some .minute
  | _ => none

/-- The mode a mode bit stands for (10_state.md R23). -/
def modeOf (b : BitVec 1) : Mode := if b = 1 then .set else .run

/-- The view a view bit stands for (10_state.md R23). -/
def viewOf (b : BitVec 1) : View := if b = 1 then .date else .time

/-- `DEC(sel, b)` of R76. -/
def Instr.decOf (f : TrField) (b : Byte) : Instr :=
  match f with
  | .second => .decSec b
  | .minute => .decMin b
  | .hour => .decHour b
  | .dayOfWeek => .decDow b
  | .date => .decDate b
  | .month => .decMonth b
  | .year => .decYear b

/-- `ENC(f, v)` of R76. -/
def Instr.encOf (f : Field) (v : Byte) : Instr :=
  match f with
  | .month => .encMonth v
  | .day => .encDay v
  | .year => .encYear v
  | .hour => .encHour v
  | .minute => .encMinute v

/-- `VIEW(0x6, ovl)` of R76: RENDER_DATE with its overlay. -/
def Instr.renderDateOf (ovl : Option Field) : Instr :=
  match ovl with
  | none => .renderDate
  | some .month => .renderDateOvlMonth
  | some .day => .renderDateOvlDay
  | some .year => .renderDateOvlYear
  | some .hour => .renderDateOvlHour
  | some .minute => .renderDateOvlMinute

/-- `VIEW(0x7, ovl)` of R76: RENDER_TIME with its overlay. -/
def Instr.renderTimeOf (ovl : Option Field) : Instr :=
  match ovl with
  | none => .renderTime
  | some .month => .renderTimeOvlMonth
  | some .day => .renderTimeOvlDay
  | some .year => .renderTimeOvlYear
  | some .hour => .renderTimeOvlHour
  | some .minute => .renderTimeOvlMinute

/-- `SET_TR(i, b)` of R76. -/
def Instr.setTrOf (f : TrField) (b : Byte) : Instr :=
  match f with
  | .second => .setTrSec b
  | .minute => .setTrMin b
  | .hour => .setTrHour b
  | .dayOfWeek => .setTrDow b
  | .date => .setTrDate b
  | .month => .setTrMonth b
  | .year => .setTrYear b

/-- `SET_CTL(mode, field, view)` of R76. -/
def Instr.setCtlOf (f : Field) (view : View) (mode : Mode) : Instr :=
  match f with
  | .month => .setCtlMonth view mode
  | .day => .setCtlDay view mode
  | .year => .setCtlYear view mode
  | .hour => .setCtlHour view mode
  | .minute => .setCtlMinute view mode

/-- Format B: bits 11:8 must be zero (R72, R75). -/
def decodeB (mk : Byte → Instr) (w : Word) : Except RefusalReason Instr :=
  if w.extractLsb' 8 4 = 0 then .ok (mk (imm8Of w)) else .error .rsvBits

/-- Format S with a Time Record index: bit 11 must be zero, then `sel` must name a field (R72, R75). -/
def decodeSTr (mk : TrField → Byte → Instr) (w : Word) : Except RefusalReason Instr :=
  if w.extractLsb' 11 1 = 0 then
    match trFieldOf (selOf w) with
    | some f => .ok (mk f (imm8Of w))
    | none => .error .rsvSel
  else .error .rsvBits

/-- Format S with a field code (R72, R75). -/
def decodeSField (mk : Field → Byte → Instr) (w : Word) : Except RefusalReason Instr :=
  if w.extractLsb' 11 1 = 0 then
    match fieldOf (selOf w) with
    | some f => .ok (mk f (imm8Of w))
    | none => .error .rsvSel
  else .error .rsvBits

/-- Format N: bits 11:0 must be zero (R72, R75). -/
def decodeN (i : Instr) (w : Word) : Except RefusalReason Instr :=
  if w.extractLsb' 0 12 = 0 then .ok i else .error .rsvBits

/-- Format V: bits 11:4 must be zero; with `en = 0` so must `fld`; with `en = 1`, `fld` must name a field (R72, R75). -/
def decodeV (mk : Option Field → Instr) (w : Word) : Except RefusalReason Instr :=
  if w.extractLsb' 4 8 = 0 then
    if w.extractLsb' 3 1 = 0 then
      if w.extractLsb' 0 3 = 0 then .ok (mk none) else .error .rsvBits
    else
      match fieldOf (w.extractLsb' 0 3) with
      | some f => .ok (mk (some f))
      | none => .error .rsvField
  else .error .rsvBits

/-- Format C: bits 11:5 must be zero, then `fld` must name a field (R72, R75). -/
def decodeC (mk : Field → View → Mode → Instr) (w : Word) : Except RefusalReason Instr :=
  if w.extractLsb' 5 7 = 0 then
    match fieldOf (w.extractLsb' 1 3) with
    | some f => .ok (mk f (viewOf (w.extractLsb' 4 1)) (modeOf (w.extractLsb' 0 1)))
    | none => .error .rsvField
  else .error .rsvBits

/-- The decoder of R76. -/
def decode (w : Word) : Except RefusalReason Instr :=
  match (opOf w).toNat with
  | 0x1 => decodeB .toBcd w
  | 0x2 => decodeSTr .decOf w
  | 0x3 => decodeSField .encOf w
  | 0x4 => decodeN .tick w
  | 0x5 => decodeN .render w
  | 0x6 => decodeV .renderDateOf w
  | 0x7 => decodeV .renderTimeOf w
  | 0x8 => decodeSTr .setTrOf w
  | 0x9 => decodeC .setCtlOf w
  | _ => .error .rsvOpcode

/-- A word of format B (R72). -/
def wordB (op : Nibble) (imm8 : Byte) : Word := op ++ 0#4 ++ imm8

/-- A word of format S (R72). -/
def wordS (op : Nibble) (sel : BitVec 3) (imm8 : Byte) : Word := op ++ 0#1 ++ sel ++ imm8

/-- A word of format N (R72). -/
def wordN (op : Nibble) : Word := op ++ 0#12

/-- A word of format V: `en = 0` and `fld = 0` without an overlay, `en = 1` and the field's code with one (R72, R73). -/
def wordV (op : Nibble) (ovl : Option Field) : Word :=
  match ovl with
  | none => op ++ 0#8 ++ 0#1 ++ 0#3
  | some f => op ++ 0#8 ++ 1#1 ++ f.code

/-- A word of format C (R72). -/
def wordC (op : Nibble) (view : View) (f : Field) (mode : Mode) : Word := op ++ 0#7 ++ view.bit ++ f.code ++ mode.bit

/-- The `sel` of a Time Record field (R73). -/
def TrField.sel (f : TrField) : BitVec 3 := BitVec.ofNat 3 f.index

/-- The encoder, from the opcode map of R74. -/
def encode : Instr → Word
  | .toBcd n => wordB 0x1 n
  | .decSec b => wordS 0x2 (TrField.sel .second) b
  | .decMin b => wordS 0x2 (TrField.sel .minute) b
  | .decHour b => wordS 0x2 (TrField.sel .hour) b
  | .decDow b => wordS 0x2 (TrField.sel .dayOfWeek) b
  | .decDate b => wordS 0x2 (TrField.sel .date) b
  | .decMonth b => wordS 0x2 (TrField.sel .month) b
  | .decYear b => wordS 0x2 (TrField.sel .year) b
  | .encMonth v => wordS 0x3 (Field.code .month) v
  | .encDay v => wordS 0x3 (Field.code .day) v
  | .encYear v => wordS 0x3 (Field.code .year) v
  | .encHour v => wordS 0x3 (Field.code .hour) v
  | .encMinute v => wordS 0x3 (Field.code .minute) v
  | .tick => wordN 0x4
  | .render => wordN 0x5
  | .renderDate => wordV 0x6 none
  | .renderDateOvlMonth => wordV 0x6 (some .month)
  | .renderDateOvlDay => wordV 0x6 (some .day)
  | .renderDateOvlYear => wordV 0x6 (some .year)
  | .renderDateOvlHour => wordV 0x6 (some .hour)
  | .renderDateOvlMinute => wordV 0x6 (some .minute)
  | .renderTime => wordV 0x7 none
  | .renderTimeOvlMonth => wordV 0x7 (some .month)
  | .renderTimeOvlDay => wordV 0x7 (some .day)
  | .renderTimeOvlYear => wordV 0x7 (some .year)
  | .renderTimeOvlHour => wordV 0x7 (some .hour)
  | .renderTimeOvlMinute => wordV 0x7 (some .minute)
  | .setTrSec b => wordS 0x8 (TrField.sel .second) b
  | .setTrMin b => wordS 0x8 (TrField.sel .minute) b
  | .setTrHour b => wordS 0x8 (TrField.sel .hour) b
  | .setTrDow b => wordS 0x8 (TrField.sel .dayOfWeek) b
  | .setTrDate b => wordS 0x8 (TrField.sel .date) b
  | .setTrMonth b => wordS 0x8 (TrField.sel .month) b
  | .setTrYear b => wordS 0x8 (TrField.sel .year) b
  | .setCtlMonth view mode => wordC 0x9 view .month mode
  | .setCtlDay view mode => wordC 0x9 view .day mode
  | .setCtlYear view mode => wordC 0x9 view .year mode
  | .setCtlHour view mode => wordC 0x9 view .hour mode
  | .setCtlMinute view mode => wordC 0x9 view .minute mode

/-- The word whose bits are the low `nbits` of `w`, bits above them zero. -/
def tableWord (nbits w : Nat) : Word := BitVec.ofNat 16 (w % 2 ^ nbits)

/-- The instruction the decoder reads from a row's bits. Every row has 16 (R71); a longer word is no operation word
(log entry 18). -/
def decodeTableWord (nbits w : Nat) : Option Instr :=
  if nbits ≤ 16 then (decode (tableWord nbits w)).toOption else none

end Sys2Proof
end

