-- ==== Sys2Proof/Config.lean ====
section
/-!
DEFINITION. The implementation parameters of the block (00_scope.md R6). R6 says that a model takes each row
marked parameter as an argument with the default given: the four of them form `Params`, which the state carries
unchanged through every step (log entry 5). `TICK_PERIOD` is OPEN and no rule depends on it (log entry 6).
-/

namespace Sys2Proof

/-- `DIGIT_ORDER` (42_display.md R162): position k at register address k, or at 7 − k. -/
inductive DigitOrder where
  | msdFirst
  | lsdFirst
deriving DecidableEq, Repr

/-- `PM_IND_MODE` (42_display.md R165): bit 5 counts only in 12-hour mode, or as it stands. -/
inductive PmIndMode where
  | gated
  | raw
deriving DecidableEq, Repr

/-- The parameters of R6 that a rule reads. DESIGN CHOICE (log entry 7): the threshold is a byte, and R6's range 1..254
is the check `Params.wf`; no definition needs it. -/
structure Params where
  /-- `BLINK_THRESHOLD`, the value `blink_count` must exceed before it resets. -/
  blinkThreshold : Byte
  /-- `HOUR_PM_SUBTRACT`, whether ENC.HOUR subtracts 12 from a count above 12. -/
  hourPmSubtract : Bool
  /-- `DIGIT_ORDER`. -/
  digitOrder : DigitOrder
  /-- `PM_IND_MODE`. -/
  pmIndMode : PmIndMode
deriving DecidableEq, Repr

/-- The defaults of R6. -/
def Params.default : Params where
  blinkThreshold := 100
  hourPmSubtract := true
  digitOrder := .msdFirst
  pmIndMode := .gated

/-- R6: `BLINK_THRESHOLD` lies in 1..254. -/
def Params.wf (p : Params) : Bool :=
  decide (1 ≤ p.blinkThreshold.toNat) && decide (p.blinkThreshold.toNat ≤ 254)

/-- `TICK_PERIOD`, the real time between two ticks, in any unit: OPEN in R6, so a constant without a value
(log entry 6). No step reads it. -/
opaque Config.tickPeriod : Nat

/-- The number of ticks between two inversions of the blink flag, `P = BLINK_THRESHOLD + 1` (41_blink.md R142). -/
def Params.blinkPeriod (p : Params) : Nat := p.blinkThreshold.toNat + 1

/-- The blink half-period in real time, `(BLINK_THRESHOLD + 1) × TICK_PERIOD` (70_reset_and_hazards.md R262). -/
def Params.halfPeriodTime (p : Params) : Nat := p.blinkPeriod * Config.tickPeriod

end Sys2Proof
end

