-- ==== Sys2Proof/Machine/State.lean ====
section
/-!
DEFINITION. The state of the block, exactly the rows of 10_state.md R20, beside the two fields of the model's own: the
parameters (log entry 5) and the operation words still to be presented (log entry 1). Reset is power-on reset
(70_reset_and_hazards.md R250).
-/

namespace Sys2Proof.Machine

/-- What a latch holds: a value, or the spec's mark `⊥` ("unwritten", 00_scope.md R8). `⊥` is a value of the spec's own
state: 10_state.md R20 gives it as the reset value, R8 says what reading it does (log entry 4). -/
inductive Latch (α : Type) where
  | unwritten
  | holds (v : α)
deriving DecidableEq, Repr

/-- The registers whose read can meet `⊥`, by the names 60_exceptions.md R221 records. -/
inductive RegName where
  | tr (f : TrField)
  | ctlField
  | ctlView
deriving DecidableEq, Repr

/-- The contents of `FAULT`: a reason with its info (60_exceptions.md R221). -/
inductive FaultMark where
  | bcdRange (count : Byte)
  | unwritten (reg : RegName)
deriving DecidableEq, Repr

/-- The contents of `REFUSED`: a reason and the refused word (60_exceptions.md R222). -/
structure RefusedMark where
  reason : RefusalReason
  word : Word
deriving DecidableEq, Repr

/-- One display-driver write: register address, then data byte (20_memory.md R57). -/
structure Frame where
  addr : Byte
  data : Byte
deriving DecidableEq, Repr

/-- The Time Record space: the written bytes by address, in rising order of address; an unlisted address holds `⊥`
(20_memory.md R50, R51; log entry 10). -/
abbrev Memory := List Host.Cell

structure State where
  /-- `TR[0]` to `TR[6]` (10_state.md R21). -/
  tr : Memory
  /-- `CTL.mode` (10_state.md R23). -/
  ctlMode : Mode
  /-- `CTL.field` (10_state.md R23). -/
  ctlField : Latch Field
  /-- `CTL.view` (10_state.md R23). -/
  ctlView : Latch View
  /-- `BC`, the tick counter `blink_count` (10_state.md R24). -/
  bc : Byte
  /-- `BF`, the blink flag `blink_flag` (10_state.md R25). -/
  bf : Byte
  /-- `R_BYTE` (10_state.md R27). -/
  rByte : Latch Byte
  /-- `R_CNT` (10_state.md R27). -/
  rCnt : Latch Byte
  /-- `R_TENS` (10_state.md R27). -/
  rTens : Latch Nibble
  /-- `R_UNITS` (10_state.md R27). -/
  rUnits : Latch Nibble
  /-- `IND`, the AM/PM indicator: true is 1, the PM lamp (10_state.md R28). -/
  ind : Latch Bool
  /-- `FRAMES`, oldest first (10_state.md R29). -/
  frames : List Frame
  /-- `FAULT` (10_state.md R30). -/
  fault : Option FaultMark
  /-- `REFUSED` (10_state.md R30). -/
  refused : Option RefusedMark
  /-- The MODEL's own: the parameters of 00_scope.md R6, which no step changes (log entry 5). -/
  params : Params
  /-- The MODEL's own: the operation words not yet presented, in the total order of both agents' steps (20_memory.md
  R61); the word of TICK is a step of the tick agent (log entry 1). -/
  pending : List Word
deriving DecidableEq, Repr

/-- Why a state has no next step. Both are the fail-stop of 60_exceptions.md R223, raised by `step` in a state that holds
the mark, and both are safe: the spec gives a marked state no step. -/
inductive Fault where
  /-- `FAULT` is set: raised by `step`, safe. -/
  | stoppedByFault (m : FaultMark)
  /-- `REFUSED` is set: raised by `step`, safe. -/
  | stoppedByRefusal (m : RefusedMark)
deriving DecidableEq, Repr

/-- Reasons to give an operation no meaning. -/
inductive Refusal where
  /-- An arm of `exec` without a meaning. No arm answers it: every operation is modelled. Safe. -/
  | notModelled (mnemonic : String)
deriving DecidableEq, Repr

/-- Power-on reset of a block with parameters `p` (70_reset_and_hazards.md R250, reset column of 10_state.md R20). -/
def State.resetWith (p : Params) : State where
  tr := []
  ctlMode := .run
  ctlField := .unwritten
  ctlView := .unwritten
  bc := 0
  bf := 0x00
  rByte := .unwritten
  rCnt := .unwritten
  rTens := .unwritten
  rUnits := .unwritten
  ind := .unwritten
  frames := []
  fault := none
  refused := none
  params := p
  pending := []

/-- The machine right after power-on, with the default parameters of 00_scope.md R6, nothing presented yet. -/
def State.reset : State := .resetWith .default

/-- What the host sees between its steps under 10_state.md R35: every row of R20 but `BC` and `BF`, the latter reaching it
only through the frames. 43_host.md R200 lets it observe `BF` too, which is `State.rowView`; DESIGN CHOICE (log entry 21). -/
structure HostView where
  tr : Memory
  ctlMode : Mode
  ctlField : Latch Field
  ctlView : Latch View
  rByte : Latch Byte
  rCnt : Latch Byte
  rTens : Latch Nibble
  rUnits : Latch Nibble
  ind : Latch Bool
  frames : List Frame
  fault : Option FaultMark
  refused : Option RefusedMark
deriving DecidableEq, Repr

end Sys2Proof.Machine
end

