-- ==== Sys2Proof/Machine/Ops.lean ====
section
/-!
DEFINITION. The named operations over the state: the Time Record space (20_memory.md R50 to R52), reading a latch that can
hold `⊥` (00_scope.md R8), emitting frames (R9), raising a fault and refusing a word (R10, 60_exceptions.md R220 to R223),
and presenting the next operation word.
-/

namespace Sys2Proof.Machine

/-- What an operation's pseudocode ends in: a value, or the first fault it raises (00_scope.md R10, R11). -/
abbrev Attempt (α : Type) := Except FaultMark α

/-- The outcome of one step of the machine. -/
abbrev Next := Host.Outcome State Fault Refusal

/-- The byte listed at an address, none where the address holds `⊥`. -/
def Memory.read : Memory → Nat → Option Byte
  | [], _ => none
  | (k, v) :: rest, a => if k = a then some v else Memory.read rest a

/-- Memory with the byte at one address written, in rising order of address. -/
def Memory.write : Memory → Nat → Byte → Memory
  | [], a, v => [(a, v)]
  | (k, w) :: rest, a, v =>
    if a < k then (a, v) :: (k, w) :: rest
    else if a = k then (a, v) :: rest
    else (k, w) :: Memory.write rest a v

/-- Every address is above `lo`, they rise strictly, and none is above 6: index 7 is not a location (20_memory.md R50). -/
def Memory.risingFrom (lo : Nat) : Memory → Bool
  | [] => true
  | (k, _) :: rest => decide (lo ≤ k) && decide (k < 7) && Memory.risingFrom (k + 1) rest

/-- The canonical form: addresses strictly rising within the Time Record space. No entry can equal what an unlisted address
holds, since that is `⊥` and no byte. -/
def Memory.wf (m : Memory) : Bool := Memory.risingFrom 0 m

/-- `read(X)` of a latch (00_scope.md R8). -/
def readLatch {α : Type} (r : RegName) : Latch α → Attempt α
  | .holds v => .ok v
  | .unwritten => .error (.unwritten r)

/-- `MemRead(i, 1)` (20_memory.md R51): the byte, or the fault UNWRITTEN with the register's name. -/
def memRead (f : TrField) (s : State) : Attempt Byte :=
  match s.tr.read f.index with
  | some b => .ok b
  | none => .error (.unwritten (.tr f))

/-- `MemWrite(i, 1, v)` (20_memory.md R52): all eight bits, unchecked. -/
def memWrite (f : TrField) (v : Byte) (s : State) : State := { s with tr := s.tr.write f.index v }

/-- `EmitFrame` of several frames in order: each is appended to the log (00_scope.md R9). -/
def emitFrames (fs : List Frame) (s : State) : State := { s with frames := s.frames ++ fs }

/-- A frame as 16 bits, the register address in bits 15:8 (20_memory.md R57). -/
def Frame.word (f : Frame) : BitVec 16 := f.addr ++ f.data

/-- Taking a fault: `FAULT <- (reason, info)` and no other write (00_scope.md R10, 60_exceptions.md R220). There is no
handler, saved state or target (R227), and no operation returns from it (R228): only power-on reset clears the mark. -/
def raiseFault (m : FaultMark) (s : State) : State := { s with fault := some m }

/-- Refusing a word: `REFUSED <- (reason, w)` and no other write (00_scope.md R10, 60_exceptions.md R220). -/
def refuse (r : RefusalReason) (w : Word) (s : State) : State := { s with refused := some ⟨r, w⟩ }

/-- How an operation's attempt ends the step: its writes take effect together, or all are discarded and the fault is
taken (00_scope.md R10, 20_memory.md R59). -/
def settle (s : State) (r : Attempt State) : Next :=
  match r with
  | .ok t => .next t
  | .error m => .next (raiseFault m s)

/-- The code of a fault's reason (60_exceptions.md R221). -/
def FaultMark.code : FaultMark → Nat
  | .bcdRange _ => 1
  | .unwritten _ => 2

/-- Fail-stop (60_exceptions.md R223): why the state has no next step, if it has none. -/
def stopReason (s : State) : Option Fault :=
  match s.fault, s.refused with
  | some m, _ => some (.stoppedByFault m)
  | none, some m => some (.stoppedByRefusal m)
  | none, none => none

/-- The next operation word an agent presents, and the state in which it has been presented (43_host.md R200). -/
def nextWord (s : State) : Option (Word × State) :=
  match s.pending with
  | [] => none
  | w :: rest => some (w, { s with pending := rest })

/-- A word put in front of those still to be presented. -/
def presentFirst (w : Word) (s : State) : State := { s with pending := w :: s.pending }

/-- Power-on reset (70_reset_and_hazards.md R250, 60_exceptions.md R235): every row of the block at its reset value. It is an
event from outside; no operation performs it (R251). The configuration and the words still to come are not the block's state. -/
def powerOn (s : State) : State := { State.resetWith s.params with pending := s.pending }

/-- What the host sees under 10_state.md R35 (log entry 21). -/
def State.hostView (s : State) : HostView where
  tr := s.tr
  ctlMode := s.ctlMode
  ctlField := s.ctlField
  ctlView := s.ctlView
  rByte := s.rByte
  rCnt := s.rCnt
  rTens := s.rTens
  rUnits := s.rUnits
  ind := s.ind
  frames := s.frames
  fault := s.fault
  refused := s.refused

/-- What the host may observe under 43_host.md R200: every row of R20 except `BC`, so `BF` itself beside what R35 grants
(log entry 21). -/
def State.rowView (s : State) : HostView × Byte := (s.hostView, s.bf)

end Sys2Proof.Machine
end

