-- ==== Sys2Proof/Machine/Operands.lean ====
section
/-!
DEFINITION. The shared functions of the codec and of the display multiplexer: `to_bcd`, mask-and-shift decode, the clamp
and the masks (40_codec.md R100 to R104), the views' digit pairs and the digit positions (42_display.md R161, R162).
-/

namespace Sys2Proof.Machine

/-- The loop of `to_bcd` (40_codec.md R100): subtract 10 from the remainder while it is 10 or more, counting tens. `fuel`
bounds the number of rounds. -/
def subtractTens : Nat → Nat → Nat → Nat × Nat
  | 0, t, r => (t, r)
  | fuel + 1, t, r => if 10 ≤ r then subtractTens fuel (t + 1) (r - 10) else (t, r)

/-- `to_bcd(n)` (40_codec.md R100). Each round takes 10 from `n`, so `n` rounds are more than enough. -/
def toBcd (n : Byte) : Attempt Byte :=
  if 99 < n.toNat then .error (.bcdRange n)
  else
    let tr := subtractTens n.toNat 0 n.toNat
    .ok (BitVec.ofNat 4 tr.1 ++ BitVec.ofNat 4 tr.2)

/-- `dec(b, tm, um)` (40_codec.md R101): tens and units by mask and shift, unchecked. -/
def dec (b tm um : Byte) : Nibble × Nibble := (((b &&& tm) >>> 4).extractLsb' 0 4, (b &&& um).extractLsb' 0 4)

/-- The tens mask of a field (40_codec.md R102). That of the hour depends on the byte's own 12/24 bit. -/
def tensMask (f : TrField) (b : Byte) : Byte :=
  match f with
  | .second => 0x70
  | .minute => 0x70
  | .hour => if b.getLsbD 6 then 0x10 else 0x30
  | .dayOfWeek => 0x00
  | .date => 0x30
  | .month => 0x10
  | .year => 0xF0

/-- The units mask of a field (40_codec.md R102). -/
def unitsMask (f : TrField) : Byte :=
  match f with
  | .second => 0x0F
  | .minute => 0x0F
  | .hour => 0x0F
  | .dayOfWeek => 0x07
  | .date => 0x0F
  | .month => 0x0F
  | .year => 0x0F

/-- The decode of a field's byte with the masks of its row (40_codec.md R102, `decode_i` of 42_display.md R164). -/
def decodeField (f : TrField) (b : Byte) : Nibble × Nibble := dec b (tensMask f b) (unitsMask f)

/-- `month_mask` (40_codec.md R103). -/
def monthMask : Byte := 0x1F

/-- `date_mask` (40_codec.md R103). -/
def dateMask : Byte := 0x3F

/-- `year_mask` (40_codec.md R103). -/
def yearMask : Byte := 0xFF

/-- `minute_mask` (40_codec.md R103). -/
def minuteMask : Byte := 0x7F

/-- `clamp(v, max) = min(v, max)` (40_codec.md R104). -/
def clamp (v max : Byte) : Byte := if max < v then max else v

/-- The Time Record field an edited field is committed to (40_codec.md R104). -/
def committedTo : Field → TrField
  | .month => .month
  | .day => .date
  | .year => .year
  | .hour => .hour
  | .minute => .minute

/-- The view that shows an edited field (42_display.md R168). -/
def shownBy : Field → View
  | .month => .date
  | .day => .date
  | .year => .date
  | .hour => .time
  | .minute => .time

/-- One digit pair: its field tag, if it has one, and the Time Record field it shows (42_display.md R161). -/
structure DigitPair where
  tag : Option Field
  field : TrField
deriving DecidableEq, Repr

/-- The three digit pairs of a view, in order of position (42_display.md R161, R164). -/
def viewPairs : View → List DigitPair
  | .date => [⟨some .month, .month⟩, ⟨some .day, .date⟩, ⟨some .year, .year⟩]
  | .time => [⟨some .hour, .hour⟩, ⟨some .minute, .minute⟩, ⟨none, .second⟩]

/-- The digit position shown at a register address (42_display.md R162, R164). -/
def digitPosition (order : DigitOrder) (addr : Nat) : Nat :=
  match order with
  | .msdFirst => addr
  | .lsdFirst => 7 - addr

end Sys2Proof.Machine
end

