-- ==== Sys2Proof/Machine/Flags.lean ====
section
/-!
DEFINITION. The block has no status flags and no condition codes (10_state.md R33), so no operation computes one. What it
calls flag and indicator are data: the blink flag `BF`, used as an OR mask (41_blink.md R141, 42_display.md R163), and the
lamp `IND` (42_display.md R165, R170).
-/

namespace Sys2Proof.Machine

/-- Inverting the blink flag is the byte complement (41_blink.md R141). -/
def invertFlag (f : Byte) : Byte := ~~~f

/-- The overlay of one nibble: OR with `f[3:0]`, after decode (42_display.md R163). -/
def overlayNibble (f : Byte) (d : Nibble) : Nibble := d ||| f.extractLsb' 0 4

/-- Whether a pair is the edited one: strict equality of its tag with the overlay field (42_display.md R163, R164). -/
def overlaid (ovl tag : Option Field) : Bool :=
  match ovl, tag with
  | some o, some t => decide (t = o)
  | _, _ => false

/-- `pm_ind(h)` (42_display.md R165). -/
def pmInd (mode : PmIndMode) (h : Byte) : Bool :=
  match mode with
  | .gated => h.getLsbD 6 && h.getLsbD 5
  | .raw => h.getLsbD 5

/-- The indicator in Set mode: 0 while a date field is edited, 1 while a time field is (42_display.md R170). -/
def setInd : View → Bool
  | .date => false
  | .time => true

end Sys2Proof.Machine
end

