-- ==== Sys2Proof/Machine/Blink.lean ====
section
/-!
DEFINITION. The blink-toggle counter: TICK (41_blink.md R140 to R144).
-/

namespace Sys2Proof.Machine

/-- One tick of the counter (41_blink.md R141): the increment is computed without wrap and compared by "greater than".
DEDUCED for a count above the threshold, which 10_state.md R26 rules out: the same comparison resets it (log entry 8). -/
def tickCounter (s : State) : State :=
  if s.params.blinkThreshold.toNat < s.bc.toNat + 1 then { s with bc := 0, bf := invertFlag s.bf }
  else { s with bc := BitVec.ofNat 8 (s.bc.toNat + 1) }

/-- TICK (41_blink.md R141). -/
def execTick (s : State) : Next := settle s (.ok (tickCounter s))

end Sys2Proof.Machine
end

