-- ==== Sys2Proof/Machine/Codec.lean ====
section
/-!
DEFINITION. The BCD codec: TO_BCD, DEC.*, ENC.* (40_codec.md R105 to R117). None writes a flag (R33).
-/

namespace Sys2Proof.Machine

/-- `(R_TENS, R_UNITS) <- d` (40_codec.md R106 to R112). -/
def latchDigits (d : Nibble × Nibble) (s : State) : State := { s with rTens := .holds d.1, rUnits := .holds d.2 }

/-- A DEC operation: decode with the field's masks and latch both digits. -/
def decodeTo (f : TrField) (b : Byte) (s : State) : Attempt State := .ok (latchDigits (decodeField f b) s)

/-- The writes every ENC operation ends with: `R_BYTE <- b; R_CNT <- c; MemWrite(i, 1, b)` (40_codec.md R113 to R117). -/
def commitByte (f : Field) (c b : Byte) (s : State) : State :=
  memWrite (committedTo f) b { s with rByte := .holds b, rCnt := .holds c }

/-- A masked commit: `b = to_bcd(c) & mask` for the count `c` after its clamp (40_codec.md R113 to R115, R117). -/
def commitMasked (f : Field) (c mask : Byte) (s : State) : Attempt State := do
  let b ← toBcd c
  pure (commitByte f c (b &&& mask) s)

/-- The hour committed for a count `c` already clamped, before `to_bcd` (40_codec.md R116). -/
def hourCount (subtract : Bool) (c : Byte) : Byte := if subtract && decide (12 < c.toNat) then c - 12 else c

/-- The PM bit of ENC.HOUR (40_codec.md R116). -/
def pmBit (c : Byte) : Byte := if 12 < c.toNat then 0x20 else 0x00

/-- The commit of ENC.HOUR for a clamped count: 12-hour form, bit 6 always set (40_codec.md R116). -/
def commitHour (c : Byte) (s : State) : Attempt State := do
  let b ← toBcd (hourCount s.params.hourPmSubtract c)
  pure (commitByte .hour c (b ||| 0x40 ||| pmBit c) s)

/-- TO_BCD (40_codec.md R105). -/
def execToBcd (n : Byte) (s : State) : Next :=
  settle s (do
    let b ← toBcd n
    pure { s with rByte := .holds b })

/-- DEC.SEC (40_codec.md R106). -/
def execDecSec (b : Byte) (s : State) : Next := settle s (decodeTo .second b s)

/-- DEC.MIN (40_codec.md R107). -/
def execDecMin (b : Byte) (s : State) : Next := settle s (decodeTo .minute b s)

/-- DEC.HOUR (40_codec.md R108). -/
def execDecHour (b : Byte) (s : State) : Next := settle s (decodeTo .hour b s)

/-- DEC.DOW (40_codec.md R109). -/
def execDecDow (b : Byte) (s : State) : Next := settle s (decodeTo .dayOfWeek b s)

/-- DEC.DATE (40_codec.md R110). -/
def execDecDate (b : Byte) (s : State) : Next := settle s (decodeTo .date b s)

/-- DEC.MONTH (40_codec.md R111). -/
def execDecMonth (b : Byte) (s : State) : Next := settle s (decodeTo .month b s)

/-- DEC.YEAR (40_codec.md R112). -/
def execDecYear (b : Byte) (s : State) : Next := settle s (decodeTo .year b s)

/-- ENC.MONTH (40_codec.md R113). -/
def execEncMonth (v : Byte) (s : State) : Next := settle s (commitMasked .month (clamp v 12) monthMask s)

/-- ENC.DAY (40_codec.md R114). -/
def execEncDay (v : Byte) (s : State) : Next := settle s (commitMasked .day (clamp v 31) dateMask s)

/-- ENC.YEAR (40_codec.md R115): no clamp, so a count above 99 faults. -/
def execEncYear (v : Byte) (s : State) : Next := settle s (commitMasked .year v yearMask s)

/-- ENC.HOUR (40_codec.md R116). -/
def execEncHour (v : Byte) (s : State) : Next := settle s (commitHour (clamp v 23) s)

/-- ENC.MINUTE (40_codec.md R117). -/
def execEncMinute (v : Byte) (s : State) : Next := settle s (commitMasked .minute (clamp v 59) minuteMask s)

end Sys2Proof.Machine
end

