-- ==== Sys2Proof/Machine/Display.lean ====
section
/-!
DEFINITION. The display multiplexer with field-overlay masking: RENDER, RENDER_DATE, RENDER_TIME (42_display.md R160 to
R171).
-/

namespace Sys2Proof.Machine

/-- The two digits of a pair showing byte `b`, overlaid if it is the edited one (42_display.md R163, R164). -/
def pairDigits (ovl : Option Field) (f : Byte) (p : DigitPair) (b : Byte) : List Nibble :=
  let d := decodeField p.field b
  if overlaid ovl p.tag then [overlayNibble f d.1, overlayNibble f d.2] else [d.1, d.2]

/-- The digits of several pairs in order of position, each byte read through `MemRead` (42_display.md R164). -/
def readDigits (ovl : Option Field) (f : Byte) (s : State) : List DigitPair → Attempt (List Nibble)
  | [] => .ok []
  | p :: rest => do
    let b ← memRead p.field s
    let ds ← readDigits ovl f s rest
    pure (pairDigits ovl f p b ++ ds)

/-- The frame at a register address: the digit of the position it shows, with bits 7:4 zero (42_display.md R162, R164,
20_memory.md R57). -/
def digitFrame (order : DigitOrder) (ds : List Nibble) (addr : Nat) : Frame where
  addr := BitVec.ofNat 8 addr
  data := (ds.getD (digitPosition order addr - 1) 0).setWidth 8

/-- The six frames of a pass, in ascending register address (42_display.md R164). -/
def digitFrames (order : DigitOrder) (ds : List Nibble) : List Frame := [1, 2, 3, 4, 5, 6].map (digitFrame order ds)

/-- `view_frames(view, ovl, f)` (42_display.md R164): a pass that reads `⊥` emits nothing. -/
def viewFrames (view : View) (ovl : Option Field) (f : Byte) (s : State) : Attempt State := do
  let ds ← readDigits ovl f s (viewPairs view)
  pure (emitFrames (digitFrames s.params.digitOrder ds) s)

/-- `IND <- v` (42_display.md R170). -/
def setIndicator (v : Bool) (s : State) : State := { s with ind := .holds v }

/-- RENDER in Run mode (42_display.md R168, R169): `CTL.view`, then `TR[2]`, then the view's bytes; no overlay. -/
def renderRun (f : Byte) (s : State) : Attempt State := do
  let view ← readLatch .ctlView s.ctlView
  let h ← memRead .hour s
  let t ← viewFrames view none f s
  pure (setIndicator (pmInd s.params.pmIndMode h) t)

/-- RENDER in Set mode (42_display.md R168, R170): `CTL.field`, then the bytes of the view it selects, that field
overlaid. -/
def renderSet (f : Byte) (s : State) : Attempt State := do
  let fl ← readLatch .ctlField s.ctlField
  let t ← viewFrames (shownBy fl) (some fl) f s
  pure (setIndicator (setInd (shownBy fl)) t)

/-- RENDER (42_display.md R168), with one snapshot of `BF` for the whole pass (R163). -/
def execRender (s : State) : Next :=
  settle s (match s.ctlMode with
    | .run => renderRun s.bf s
    | .set => renderSet s.bf s)

/-- RENDER_DATE without overlay (42_display.md R166). -/
def execRenderDate (s : State) : Next := settle s (viewFrames .date none s.bf s)

/-- RENDER_DATE ovl=MONTH (42_display.md R166). -/
def execRenderDateOvlMonth (s : State) : Next := settle s (viewFrames .date (some .month) s.bf s)

/-- RENDER_DATE ovl=DAY (42_display.md R166). -/
def execRenderDateOvlDay (s : State) : Next := settle s (viewFrames .date (some .day) s.bf s)

/-- RENDER_DATE ovl=YEAR (42_display.md R166). -/
def execRenderDateOvlYear (s : State) : Next := settle s (viewFrames .date (some .year) s.bf s)

/-- RENDER_DATE ovl=HOUR: no pair of this view has the tag, so nothing is overlaid (42_display.md R166). -/
def execRenderDateOvlHour (s : State) : Next := settle s (viewFrames .date (some .hour) s.bf s)

/-- RENDER_DATE ovl=MINUTE: as with HOUR (42_display.md R166). -/
def execRenderDateOvlMinute (s : State) : Next := settle s (viewFrames .date (some .minute) s.bf s)

/-- RENDER_TIME without overlay (42_display.md R167). -/
def execRenderTime (s : State) : Next := settle s (viewFrames .time none s.bf s)

/-- RENDER_TIME ovl=MONTH: no pair of this view has the tag (42_display.md R167). -/
def execRenderTimeOvlMonth (s : State) : Next := settle s (viewFrames .time (some .month) s.bf s)

/-- RENDER_TIME ovl=DAY: as with MONTH (42_display.md R167). -/
def execRenderTimeOvlDay (s : State) : Next := settle s (viewFrames .time (some .day) s.bf s)

/-- RENDER_TIME ovl=YEAR: as with MONTH (42_display.md R167). -/
def execRenderTimeOvlYear (s : State) : Next := settle s (viewFrames .time (some .year) s.bf s)

/-- RENDER_TIME ovl=HOUR (42_display.md R167). -/
def execRenderTimeOvlHour (s : State) : Next := settle s (viewFrames .time (some .hour) s.bf s)

/-- RENDER_TIME ovl=MINUTE (42_display.md R167). -/
def execRenderTimeOvlMinute (s : State) : Next := settle s (viewFrames .time (some .minute) s.bf s)

end Sys2Proof.Machine
end

