-- ==== Sys2Proof/Machine/HostPort.lean ====
section
/-!
DEFINITION. The host's port: SET_TR and SET_CTL (43_host.md R201, R202). Neither can fault.
-/

namespace Sys2Proof.Machine

/-- `CTL.mode <- mode; CTL.field <- fld; CTL.view <- view`, always all three (43_host.md R202). -/
def latchControl (f : Field) (view : View) (mode : Mode) (s : State) : State :=
  { s with ctlMode := mode, ctlField := .holds f, ctlView := .holds view }

/-- SET_TR SEC (43_host.md R201). -/
def execSetTrSec (b : Byte) (s : State) : Next := settle s (.ok (memWrite .second b s))

/-- SET_TR MIN (43_host.md R201). -/
def execSetTrMin (b : Byte) (s : State) : Next := settle s (.ok (memWrite .minute b s))

/-- SET_TR HOUR (43_host.md R201). -/
def execSetTrHour (b : Byte) (s : State) : Next := settle s (.ok (memWrite .hour b s))

/-- SET_TR DOW (43_host.md R201). -/
def execSetTrDow (b : Byte) (s : State) : Next := settle s (.ok (memWrite .dayOfWeek b s))

/-- SET_TR DATE (43_host.md R201). -/
def execSetTrDate (b : Byte) (s : State) : Next := settle s (.ok (memWrite .date b s))

/-- SET_TR MONTH (43_host.md R201). -/
def execSetTrMonth (b : Byte) (s : State) : Next := settle s (.ok (memWrite .month b s))

/-- SET_TR YEAR (43_host.md R201). -/
def execSetTrYear (b : Byte) (s : State) : Next := settle s (.ok (memWrite .year b s))

/-- SET_CTL fld=MONTH (43_host.md R202). -/
def execSetCtlMonth (view : View) (mode : Mode) (s : State) : Next := settle s (.ok (latchControl .month view mode s))

/-- SET_CTL fld=DAY (43_host.md R202). -/
def execSetCtlDay (view : View) (mode : Mode) (s : State) : Next := settle s (.ok (latchControl .day view mode s))

/-- SET_CTL fld=YEAR (43_host.md R202). -/
def execSetCtlYear (view : View) (mode : Mode) (s : State) : Next := settle s (.ok (latchControl .year view mode s))

/-- SET_CTL fld=HOUR (43_host.md R202). -/
def execSetCtlHour (view : View) (mode : Mode) (s : State) : Next := settle s (.ok (latchControl .hour view mode s))

/-- SET_CTL fld=MINUTE (43_host.md R202). -/
def execSetCtlMinute (view : View) (mode : Mode) (s : State) : Next := settle s (.ok (latchControl .minute view mode s))

end Sys2Proof.Machine
end

