-- ==== Sys2Proof/Machine/Dispatch.lean ====
section
/-!
DEFINITION. One arm per operation: a direct call of its meaning. Every row of spec/opcode_table.json has one.
-/

namespace Sys2Proof.Machine

def exec (i : Instr) (s : State) : Host.Outcome State Fault Refusal :=
  match i with
  | .toBcd n => Sys2Proof.Machine.execToBcd n s
  | .decSec b => Sys2Proof.Machine.execDecSec b s
  | .decMin b => Sys2Proof.Machine.execDecMin b s
  | .decHour b => Sys2Proof.Machine.execDecHour b s
  | .decDow b => Sys2Proof.Machine.execDecDow b s
  | .decDate b => Sys2Proof.Machine.execDecDate b s
  | .decMonth b => Sys2Proof.Machine.execDecMonth b s
  | .decYear b => Sys2Proof.Machine.execDecYear b s
  | .encMonth v => Sys2Proof.Machine.execEncMonth v s
  | .encDay v => Sys2Proof.Machine.execEncDay v s
  | .encYear v => Sys2Proof.Machine.execEncYear v s
  | .encHour v => Sys2Proof.Machine.execEncHour v s
  | .encMinute v => Sys2Proof.Machine.execEncMinute v s
  | .tick => Sys2Proof.Machine.execTick s
  | .render => Sys2Proof.Machine.execRender s
  | .renderDate => Sys2Proof.Machine.execRenderDate s
  | .renderDateOvlMonth => Sys2Proof.Machine.execRenderDateOvlMonth s
  | .renderDateOvlDay => Sys2Proof.Machine.execRenderDateOvlDay s
  | .renderDateOvlYear => Sys2Proof.Machine.execRenderDateOvlYear s
  | .renderDateOvlHour => Sys2Proof.Machine.execRenderDateOvlHour s
  | .renderDateOvlMinute => Sys2Proof.Machine.execRenderDateOvlMinute s
  | .renderTime => Sys2Proof.Machine.execRenderTime s
  | .renderTimeOvlMonth => Sys2Proof.Machine.execRenderTimeOvlMonth s
  | .renderTimeOvlDay => Sys2Proof.Machine.execRenderTimeOvlDay s
  | .renderTimeOvlYear => Sys2Proof.Machine.execRenderTimeOvlYear s
  | .renderTimeOvlHour => Sys2Proof.Machine.execRenderTimeOvlHour s
  | .renderTimeOvlMinute => Sys2Proof.Machine.execRenderTimeOvlMinute s
  | .setTrSec b => Sys2Proof.Machine.execSetTrSec b s
  | .setTrMin b => Sys2Proof.Machine.execSetTrMin b s
  | .setTrHour b => Sys2Proof.Machine.execSetTrHour b s
  | .setTrDow b => Sys2Proof.Machine.execSetTrDow b s
  | .setTrDate b => Sys2Proof.Machine.execSetTrDate b s
  | .setTrMonth b => Sys2Proof.Machine.execSetTrMonth b s
  | .setTrYear b => Sys2Proof.Machine.execSetTrYear b s
  | .setCtlMonth view mode => Sys2Proof.Machine.execSetCtlMonth view mode s
  | .setCtlDay view mode => Sys2Proof.Machine.execSetCtlDay view mode s
  | .setCtlYear view mode => Sys2Proof.Machine.execSetCtlYear view mode s
  | .setCtlHour view mode => Sys2Proof.Machine.execSetCtlHour view mode s
  | .setCtlMinute view mode => Sys2Proof.Machine.execSetCtlMinute view mode s

end Sys2Proof.Machine
end

