-- ==== Sys2Proof/Machine/Step.lean ====
section
/-!
DEFINITION. One step of the machine: an agent presents the next operation word, the decoder reads it, and the operation
takes effect (43_host.md R200, 60_exceptions.md R220, R224). A marked state has no next step (R223). With no word presented
the block waits (70_reset_and_hazards.md R252; log entry 2).
-/

namespace Sys2Proof.Machine

/-- One presented word: the decoder runs first, then the operation (60_exceptions.md R224). -/
def stepWord (w : Word) (s : State) : Host.Outcome State Fault Refusal :=
  match decode w with
  | .ok i => exec i s
  | .error r => .next (refuse r w s)

/-- One step. -/
def step (s : State) : Host.Outcome State Fault Refusal :=
  match stopReason s with
  | some f => .fault f
  | none =>
    match nextWord s with
    | none => .next s
    | some (w, t) => stepWord w t

/-- The state with an instruction's word placed where `step` takes its next operation word: in front of those still to be
presented (log entry 1). -/
def State.withFetchWord (s : State) (nbits w : Nat) : State := presentFirst (tableWord nbits w) s

end Sys2Proof.Machine
end

