-- ==== Sys2Proof/Machine/Asm.lean ====
section
/-!
DEFINITION. The spec's assembler: the operations and words a line stands for (30_encoding.md R77, R78), and reading a line's
text. No step of the machine depends on this file. What R77 leaves open about white space and digits is log entry 16.
-/

namespace Sys2Proof.Asm

/-- The field a Time Record index names (10_state.md R21). -/
def trFieldAt (i : Nat) : Option TrField := if i < 8 then trFieldOf (BitVec.ofNat 3 i) else none

/-- The operations a line stands for; none for an ill-formed one (R77, R78). -/
def expand (l : Line) : Option (List Instr) :=
  if l.wellFormed then
    match l with
    | .toBcd n => some [.toBcd (BitVec.ofNat 8 n)]
    | .dec f b => some [.decOf f (BitVec.ofNat 8 b)]
    | .enc f v => some [.encOf f (BitVec.ofNat 8 v)]
    | .tick => some [.tick]
    | .render => some [.render]
    | .renderDate ovl => some [.renderDateOf ovl]
    | .renderTime ovl => some [.renderTimeOf ovl]
    | .setTr i b => (trFieldAt i).map fun f => [.setTrOf f (BitVec.ofNat 8 b)]
    | .setCtl mode f view => some [.setCtlOf f view mode]
    | .ticks k => some (List.replicate k .tick)
    | .loadTr s mi h dw dt mo y =>
      some [.setTrSec (BitVec.ofNat 8 s), .setTrMin (BitVec.ofNat 8 mi), .setTrHour (BitVec.ofNat 8 h),
        .setTrDow (BitVec.ofNat 8 dw), .setTrDate (BitVec.ofNat 8 dt), .setTrMonth (BitVec.ofNat 8 mo),
        .setTrYear (BitVec.ofNat 8 y)]
    | .sentinels => some [.setTrSec 0x00, .setTrDow 0x01]
  else none

/-- The operation words of a program, line by line; none if a line is ill-formed. -/
def assemble : List Line → Option (List Word)
  | [] => some []
  | l :: rest => do
    let is ← expand l
    let ws ← assemble rest
    pure (is.map encode ++ ws)

/-- A line's text before its `;` comment (R77). -/
def stripComment : List Char → List Char
  | [] => []
  | c :: cs => if c = ';' then [] else c :: stripComment cs

/-- The tokens of a text: a comma is one by itself, spaces separate the others. `cur` is the token being read. -/
def tokensFrom : List Char → List Char → List (List Char)
  | cur, [] => if cur = [] then [] else [cur]
  | cur, c :: cs =>
    if c = ' ' then if cur = [] then tokensFrom [] cs else cur :: tokensFrom [] cs
    else if c = ',' then if cur = [] then [','] :: tokensFrom [] cs else cur :: [','] :: tokensFrom [] cs
    else tokensFrom (cur ++ [c]) cs

/-- The value of a digit in a base, none if it is not one. -/
def digitValue (base : Nat) (c : Char) : Option Nat :=
  let v :=
    if '0'.toNat ≤ c.toNat ∧ c.toNat ≤ '9'.toNat then c.toNat - '0'.toNat
    else if 'a'.toNat ≤ c.toNat ∧ c.toNat ≤ 'f'.toNat then c.toNat - 'a'.toNat + 10
    else if 'A'.toNat ≤ c.toNat ∧ c.toNat ≤ 'F'.toNat then c.toNat - 'A'.toNat + 10
    else base
  if v < base then some v else none

/-- The value of a list of digits after those already read. -/
def digitsValue (base : Nat) : Nat → List Char → Option Nat
  | acc, [] => some acc
  | acc, c :: cs => do
    let d ← digitValue base c
    digitsValue base (acc * base + d) cs

/-- A number: decimal, or hexadecimal with `0x` (R77). -/
def number : List Char → Option Nat
  | [] => none
  | '0' :: 'x' :: c :: cs => digitsValue 16 0 (c :: cs)
  | c :: cs => digitsValue 10 0 (c :: cs)

/-- A field's name (R77). -/
def fieldName (t : List Char) : Option Field :=
  match String.ofList t with
  | "MONTH" => some .month
  | "DAY" => some .day
  | "YEAR" => some .year
  | "HOUR" => some .hour
  | "MINUTE" => some .minute
  | _ => none

/-- A Time Record index: a number or a name (R77). -/
def trIndex (t : List Char) : Option Nat :=
  match String.ofList t with
  | "SEC" => some 0
  | "MIN" => some 1
  | "HOUR" => some 2
  | "DOW" => some 3
  | "DATE" => some 4
  | "MONTH" => some 5
  | "YEAR" => some 6
  | _ => number t

/-- An overlay operand `ovl=F` (R77). -/
def overlayOperand (t : List Char) : Option Field :=
  match t with
  | 'o' :: 'v' :: 'l' :: '=' :: name => fieldName name
  | _ => none

/-- The numbers of a list of operands separated by commas. -/
def numbers : List (List Char) → Option (List Nat)
  | [] => none
  | [t] => (number t).map fun n => [n]
  | t :: c :: rest => do
    let n ← number t
    let ns ← if c = [','] then numbers rest else none
    pure (n :: ns)

/-- A line whose one operand is a number. -/
def unary (mk : Nat → Line) (args : List (List Char)) : Option Line :=
  match args with
  | [t] => (number t).map mk
  | _ => none

/-- A line without operands. -/
def nullary (l : Line) (args : List (List Char)) : Option Line := if args = [] then some l else none

/-- A line with an overlay or without. -/
def viewLine (mk : Option Field → Line) (args : List (List Char)) : Option Line :=
  match args with
  | [] => some (mk none)
  | [t] => (overlayOperand t).map fun f => mk (some f)
  | _ => none

/-- `SET_TR i, b`. -/
def setTrLine (args : List (List Char)) : Option Line :=
  match args with
  | [i, c, b] => do
    let i ← trIndex i
    let b ← number b
    if c = [','] then some (.setTr i b) else none
  | _ => none

/-- `SET_CTL M, F, V`. -/
def setCtlLine (args : List (List Char)) : Option Line :=
  match args with
  | [m, c, f, c', v] => do
    let mode ← match String.ofList m with
      | "RUN" => some Mode.run
      | "SET" => some Mode.set
      | _ => none
    let f ← fieldName f
    let view ← match String.ofList v with
      | "TIME" => some View.time
      | "DATE" => some View.date
      | _ => none
    if c = [','] ∧ c' = [','] then some (.setCtl mode f view) else none
  | _ => none

/-- `LOAD_TR s, mi, h, dw, dt, mo, y`. -/
def loadTrLine (args : List (List Char)) : Option Line := do
  match ← numbers args with
  | [s, mi, h, dw, dt, mo, y] => some (.loadTr s mi h dw dt mo y)
  | _ => none

/-- The line with a mnemonic and its operands (R77, R78). -/
def lineOf (op : String) (args : List (List Char)) : Option Line :=
  match op with
  | "TO_BCD" => unary .toBcd args
  | "DEC.SEC" => unary (.dec .second) args
  | "DEC.MIN" => unary (.dec .minute) args
  | "DEC.HOUR" => unary (.dec .hour) args
  | "DEC.DOW" => unary (.dec .dayOfWeek) args
  | "DEC.DATE" => unary (.dec .date) args
  | "DEC.MONTH" => unary (.dec .month) args
  | "DEC.YEAR" => unary (.dec .year) args
  | "ENC.MONTH" => unary (.enc .month) args
  | "ENC.DAY" => unary (.enc .day) args
  | "ENC.YEAR" => unary (.enc .year) args
  | "ENC.HOUR" => unary (.enc .hour) args
  | "ENC.MINUTE" => unary (.enc .minute) args
  | "TICK" => nullary .tick args
  | "RENDER" => nullary .render args
  | "RENDER_DATE" => viewLine .renderDate args
  | "RENDER_TIME" => viewLine .renderTime args
  | "SET_TR" => setTrLine args
  | "SET_CTL" => setCtlLine args
  | "TICKS" => unary .ticks args
  | "LOAD_TR" => loadTrLine args
  | "SENTINELS" => nullary .sentinels args
  | _ => none

/-- The line a text spells, none if it spells none (R77). The answer may still be ill-formed (`Line.wellFormed`). -/
def parseLine (text : String) : Option Line :=
  match tokensFrom [] (stripComment text.toList) with
  | [] => none
  | op :: args => lineOf (String.ofList op) args

end Sys2Proof.Asm
end

