-- ==== Sys2Proof/Safety.lean ====
section
/-!
DEFINITION. What counts as a safe state and a safe run: no mark set and a normal end (43_host.md R205), the invariant every
step keeps (10_state.md R26 and the shapes R20, R29, R50, R54 and R57 give), what the host must have done before a render
(70_reset_and_hazards.md R253) and must pass to the codec (43_host.md R203), and the infinite executions that are admitted
(41_blink.md R144).
-/

namespace Sys2Proof.Machine

/-- Neither outcome mark is set, so an agent may step (10_state.md R30, 60_exceptions.md R223). -/
abbrev State.Running (s : State) : Prop := s.fault = none ∧ s.refused = none

/-- Where 43_host.md R205 lets a run end normally: every HOST word has taken its step, so at most ticks remain, and no mark
is set. -/
abbrev State.HostEnd (s : State) : Prop := (∀ w ∈ s.pending, decode w = .ok .tick) ∧ s.Running

/-- The normal end of a run of the model: every word of the list, trailing ticks included, has taken its step and no mark is
set. DESIGN CHOICE (log entry 22): R205 leaves open how many ticks follow the last host word, and the list says so. -/
abbrev State.NormalEnd (s : State) : Prop := s.pending = [] ∧ s.Running

/-- The abnormal end of a run (43_host.md R205): a mark is set. -/
abbrev State.AbnormalEnd (s : State) : Prop := s.fault ≠ none ∨ s.refused ≠ none

/-- The invariant of the blink state (10_state.md R26). -/
abbrev State.BlinkInv (s : State) : Prop :=
  (s.bf = 0x00 ∨ s.bf = 0xFF) ∧ s.bc.toNat ≤ s.params.blinkThreshold.toNat

/-- A frame the block may have emitted: to a digit register, with a nibble as data (20_memory.md R54, R57). -/
abbrev Frame.Digit (f : Frame) : Prop := 1 ≤ f.addr.toNat ∧ f.addr.toNat ≤ 6 ∧ f.data.toNat < 16

/-- The invariant of the machine: the blink state of R26, the canonical form of the Time Record space (20_memory.md R50),
frames in whole passes of digit writes (10_state.md R29, 20_memory.md R54, R57), and at most one outcome mark
(60_exceptions.md R220). -/
structure State.Inv (s : State) : Prop where
  blink : s.BlinkInv
  memory : s.tr.wf = true
  digits : ∀ f ∈ s.frames, f.Digit
  passes : s.frames.length % 6 = 0
  oneMark : s.fault = none ∨ s.refused = none

/-- What the host has done before any render (70_reset_and_hazards.md R253): latched `CTL.view` and `CTL.field`, and written
the six bytes the two views show. -/
structure State.Booted (s : State) : Prop where
  view : s.ctlView ≠ .unwritten
  field : s.ctlField ≠ .unwritten
  bytes : ∀ f : TrField, f ≠ .dayOfWeek → s.tr.read f.index ≠ none

/-- Host duty 4, clamp first (43_host.md R203, 70_reset_and_hazards.md R258): TO_BCD and ENC.YEAR get counts of at most 99. -/
def ClampedFirst (i : Instr) : Prop :=
  (∀ n, i = .toBcd n → n.toNat ≤ 99) ∧ (∀ v, i = .encYear v → v.toNat ≤ 99)

/-- A host that keeps duty 4 and presents only words that spell an operation. -/
def ObedientWord (w : Word) : Prop := ∃ i, decode w = .ok i ∧ ClampedFirst i

/-- An infinite execution: at every instant one word is presented and takes its step (20_memory.md R61). -/
def IsExecution (words : Nat → Word) (states : Nat → State) : Prop :=
  ∀ n, step { states n with pending := [words n] } = .next (states (n + 1))

/-- Weak fairness to the tick agent: it steps infinitely often (41_blink.md R144, log entry 9). -/
def FairToTick (words : Nat → Word) : Prop := ∀ n, ∃ m, n ≤ m ∧ decode (words m) = .ok .tick

end Sys2Proof.Machine
end

