-- ==== Sys2Proof/Certificates/Slice0/Obligations.lean ====
section
/-!
DEFINITION. The statements for the provers. The functions of `Sys2Proof.Spec` say in their own words what the rules compute
(digits by bit position, packed bytes by quotient and remainder, reserved words by division), so that a statement compares
the model with the rule and not with itself.
-/

namespace Sys2Proof.Spec

open Sys2Proof.Machine

/-- The packed byte of a count: tens in the high nibble, units in the low one (20_memory.md R55, 40_codec.md R100). -/
def bcdByte (c : Nat) : Byte := BitVec.ofNat 8 (16 * (c / 10) + c % 10)

/-- The tens digit of a field's byte, by the bits of 10_state.md R22 (40_codec.md R102). -/
def tensOf (f : TrField) (b : Byte) : Nibble :=
  match f with
  | .second => (b.extractLsb' 4 3).setWidth 4
  | .minute => (b.extractLsb' 4 3).setWidth 4
  | .hour => if b.getLsbD 6 then (b.extractLsb' 4 1).setWidth 4 else (b.extractLsb' 4 2).setWidth 4
  | .dayOfWeek => 0
  | .date => (b.extractLsb' 4 2).setWidth 4
  | .month => (b.extractLsb' 4 1).setWidth 4
  | .year => b.extractLsb' 4 4

/-- The units digit of a field's byte, by the bits of 10_state.md R22 (40_codec.md R102). -/
def unitsOf (f : TrField) (b : Byte) : Nibble :=
  match f with
  | .second => b.extractLsb' 0 4
  | .minute => b.extractLsb' 0 4
  | .hour => b.extractLsb' 0 4
  | .dayOfWeek => (b.extractLsb' 0 3).setWidth 4
  | .date => b.extractLsb' 0 4
  | .month => b.extractLsb' 0 4
  | .year => b.extractLsb' 0 4

/-- A digit as the pass shows it: OR `f[3:0]` in the edited pair (42_display.md R163). -/
def shown (edited : Bool) (f : Byte) (d : Nibble) : Nibble := if edited then d ||| f.extractLsb' 0 4 else d

/-- The six frames of a pass with the digits of positions 1 to 6 (42_display.md R162, R164, 20_memory.md R57). -/
def passFrames (order : DigitOrder) (d₁ d₂ d₃ d₄ d₅ d₆ : Nibble) : List Frame :=
  match order with
  | .msdFirst =>
    [⟨1, d₁.setWidth 8⟩, ⟨2, d₂.setWidth 8⟩, ⟨3, d₃.setWidth 8⟩, ⟨4, d₄.setWidth 8⟩, ⟨5, d₅.setWidth 8⟩,
      ⟨6, d₆.setWidth 8⟩]
  | .lsdFirst =>
    [⟨1, d₆.setWidth 8⟩, ⟨2, d₅.setWidth 8⟩, ⟨3, d₄.setWidth 8⟩, ⟨4, d₃.setWidth 8⟩, ⟨5, d₂.setWidth 8⟩,
      ⟨6, d₁.setWidth 8⟩]

/-- The frames of the date view: month, date, year (42_display.md R161). -/
def dateFrames (order : DigitOrder) (ovl : Option Field) (f mo dt yr : Byte) : List Frame :=
  passFrames order
    (shown (ovl == some .month) f (tensOf .month mo)) (shown (ovl == some .month) f (unitsOf .month mo))
    (shown (ovl == some .day) f (tensOf .date dt)) (shown (ovl == some .day) f (unitsOf .date dt))
    (shown (ovl == some .year) f (tensOf .year yr)) (shown (ovl == some .year) f (unitsOf .year yr))

/-- The frames of the time view: hour, minute, second, the last never overlaid (42_display.md R161). -/
def timeFrames (order : DigitOrder) (ovl : Option Field) (f h mi sc : Byte) : List Frame :=
  passFrames order
    (shown (ovl == some .hour) f (tensOf .hour h)) (shown (ovl == some .hour) f (unitsOf .hour h))
    (shown (ovl == some .minute) f (tensOf .minute mi)) (shown (ovl == some .minute) f (unitsOf .minute mi))
    (tensOf .second sc) (unitsOf .second sc)

/-- `pm_ind(h)` (42_display.md R165): in GATED mode bit 6 and bit 5, in RAW mode bit 5. -/
def pmLamp (mode : PmIndMode) (h : Byte) : Bool :=
  match mode with
  | .gated => decide (h.toNat / 32 % 4 = 3)
  | .raw => decide (h.toNat / 32 % 2 = 1)

/-- The bytes a view reads, in order (60_exceptions.md R224). -/
def bytesOf : View → List TrField
  | .date => [.month, .date, .year]
  | .time => [.hour, .minute, .second]

/-- The first of some fields that holds `⊥`. -/
def firstUnwritten (s : State) : List TrField → Option TrField
  | [] => none
  | f :: rest => if s.tr.read f.index = none then some f else firstUnwritten s rest

/-- Where the tens and the units of an edited field stand among the six frames of a pass, counted from 0
(42_display.md R161, R162). -/
def editedSlots (order : DigitOrder) (f : Field) : Nat × Nat :=
  match order, f with
  | .msdFirst, .month => (0, 1)
  | .msdFirst, .day => (2, 3)
  | .msdFirst, .year => (4, 5)
  | .msdFirst, .hour => (0, 1)
  | .msdFirst, .minute => (2, 3)
  | .lsdFirst, .month => (5, 4)
  | .lsdFirst, .day => (3, 2)
  | .lsdFirst, .year => (1, 0)
  | .lsdFirst, .hour => (5, 4)
  | .lsdFirst, .minute => (3, 2)

/-- The largest count of a field (40_codec.md R104; for the year, the largest `to_bcd` takes, R100). -/
def maxCount : Field → Nat
  | .month => 12
  | .day => 31
  | .year => 99
  | .hour => 23
  | .minute => 59

/-- The operation class of a word, `w[15:12]` (30_encoding.md R71). -/
def opClass (w : Word) : Nat := w.toNat / 4096

/-- Check 1 of 30_encoding.md R75. -/
def reservedOpcode (w : Word) : Prop := opClass w = 0 ∨ 10 ≤ opClass w

/-- Check 2 of 30_encoding.md R75: a must-be-zero bit of the format is 1. -/
def reservedBits (w : Word) : Prop :=
  (opClass w = 1 ∧ w.toNat / 256 % 16 ≠ 0) ∨
  ((opClass w = 2 ∨ opClass w = 3 ∨ opClass w = 8) ∧ w.toNat / 2048 % 2 = 1) ∨
  ((opClass w = 4 ∨ opClass w = 5) ∧ w.toNat % 4096 ≠ 0) ∨
  ((opClass w = 6 ∨ opClass w = 7) ∧
    (w.toNat / 16 % 256 ≠ 0 ∨ (w.toNat / 8 % 2 = 0 ∧ w.toNat % 8 ≠ 0))) ∨
  (opClass w = 9 ∧ w.toNat / 32 % 128 ≠ 0)

/-- Check 3 of 30_encoding.md R75. -/
def reservedSel (w : Word) : Prop :=
  ((opClass w = 2 ∨ opClass w = 8) ∧ w.toNat / 256 % 8 = 7) ∨ (opClass w = 3 ∧ 5 ≤ w.toNat / 256 % 8)

/-- Check 4 of 30_encoding.md R75. -/
def reservedField (w : Word) : Prop :=
  ((opClass w = 6 ∨ opClass w = 7) ∧ w.toNat / 8 % 2 = 1 ∧ 5 ≤ w.toNat % 8) ∨
  (opClass w = 9 ∧ 5 ≤ w.toNat / 2 % 8)

/-- The render operations (42_display.md R166 to R168). -/
def isRender (i : Instr) : Prop := i = .render ∨ ∃ ovl, i = .renderDateOf ovl ∨ i = .renderTimeOf ovl

/-- The operations the host may repeat without effect (20_memory.md R60). -/
def isIdempotent (i : Instr) : Prop :=
  (∃ f b, i = .setTrOf f b) ∨ (∃ f view mode, i = .setCtlOf f view mode) ∨ ∃ f v, i = .encOf f v

/-- The register a fault names holds `⊥` (60_exceptions.md R221). -/
def holdsBottom (s : State) : RegName → Prop
  | .tr f => s.tr.read f.index = none
  | .ctlField => s.ctlField = .unwritten
  | .ctlView => s.ctlView = .unwritten

/-- The reset column of 10_state.md R20. -/
def atReset (s : State) : Prop :=
  (∀ a, s.tr.read a = none) ∧ s.ctlMode = .run ∧ s.ctlField = .unwritten ∧ s.ctlView = .unwritten ∧
  s.bc = 0 ∧ s.bf = 0x00 ∧ s.rByte = .unwritten ∧ s.rCnt = .unwritten ∧ s.rTens = .unwritten ∧
  s.rUnits = .unwritten ∧ s.ind = .unwritten ∧ s.frames = [] ∧ s.fault = none ∧ s.refused = none

/-- The state after a number of ticks and nothing else (41_blink.md R142). -/
def afterTicks : Nat → State → Option State
  | 0, s => some s
  | k + 1, s =>
    match exec .tick s with
    | .next t => afterTicks k t
    | .fault _ => none
    | .refused _ => none

/-- The same state but for the byte of day_of_week. -/
def agreeButDayOfWeek (s s' : State) : Prop :=
  { s with tr := [] } = { s' with tr := [] } ∧ ∀ a, a ≠ 3 → s.tr.read a = s'.tr.read a

/-- The byte `b` meets the range and layout of its field for a commit of count `v` (10_state.md R22, 40_codec.md R120). -/
def compliant (p : Params) (f : Field) (v b : Byte) : Prop :=
  let n := b.toNat
  let count := 10 * (n / 16) + n % 16
  match f with
  | .month => n < 32 ∧ n % 16 ≤ 9 ∧ count ≤ 12 ∧ (0 < v.toNat → 1 ≤ count)
  | .day => n < 64 ∧ n % 16 ≤ 9 ∧ count ≤ 31 ∧ (0 < v.toNat → 1 ≤ count)
  | .year => n / 16 ≤ 9 ∧ n % 16 ≤ 9
  | .hour =>
    let low := n % 32
    let hours := 10 * (low / 16) + low % 16
    n < 128 ∧ n / 64 = 1 ∧ low % 16 ≤ 9 ∧ (n / 32 % 2 = 1 ↔ 12 < min v.toNat 23) ∧
      (p.hourPmSubtract = true → hours ≤ 12 ∧ (0 < v.toNat → 1 ≤ hours))
  | .minute => n < 128 ∧ n % 16 ≤ 9 ∧ count ≤ 59

end Sys2Proof.Spec

open Sys2Proof Sys2Proof.Machine Sys2Proof.Spec

/-! ### Encoding -/

/-- R72, R74, R76: decoding the word of an operation gives the operation back, operands and all. -/
def Obligations.EncodeThenDecode : Prop := ∀ i : Instr, decode (encode i) = .ok i

/-- R74 to R76: a word that spells an operation is that operation's word, so no two words spell the same one. -/
def Obligations.DecodedWordIsItsEncoding : Prop := ∀ (w : Word) (i : Instr), decode w = .ok i → encode i = w

/-- R74: the word patterns, one per defined operation, for every operand. -/
def Obligations.WordPatterns : Prop :=
  (∀ n : Byte, decode (0x10#8 ++ n) = .ok (.toBcd n)) ∧
  (∀ b : Byte,
    decode (0x20#8 ++ b) = .ok (.decSec b) ∧ decode (0x21#8 ++ b) = .ok (.decMin b) ∧
    decode (0x22#8 ++ b) = .ok (.decHour b) ∧ decode (0x23#8 ++ b) = .ok (.decDow b) ∧
    decode (0x24#8 ++ b) = .ok (.decDate b) ∧ decode (0x25#8 ++ b) = .ok (.decMonth b) ∧
    decode (0x26#8 ++ b) = .ok (.decYear b)) ∧
  (∀ v : Byte,
    decode (0x30#8 ++ v) = .ok (.encMonth v) ∧ decode (0x31#8 ++ v) = .ok (.encDay v) ∧
    decode (0x32#8 ++ v) = .ok (.encYear v) ∧ decode (0x33#8 ++ v) = .ok (.encHour v) ∧
    decode (0x34#8 ++ v) = .ok (.encMinute v)) ∧
  decode 0x4000 = .ok .tick ∧ decode 0x5000 = .ok .render ∧
  decode 0x6000 = .ok .renderDate ∧ decode 0x6008 = .ok .renderDateOvlMonth ∧
  decode 0x6009 = .ok .renderDateOvlDay ∧ decode 0x600A = .ok .renderDateOvlYear ∧
  decode 0x600B = .ok .renderDateOvlHour ∧ decode 0x600C = .ok .renderDateOvlMinute ∧
  decode 0x7000 = .ok .renderTime ∧ decode 0x7008 = .ok .renderTimeOvlMonth ∧
  decode 0x7009 = .ok .renderTimeOvlDay ∧ decode 0x700A = .ok .renderTimeOvlYear ∧
  decode 0x700B = .ok .renderTimeOvlHour ∧ decode 0x700C = .ok .renderTimeOvlMinute ∧
  (∀ b : Byte,
    decode (0x80#8 ++ b) = .ok (.setTrSec b) ∧ decode (0x81#8 ++ b) = .ok (.setTrMin b) ∧
    decode (0x82#8 ++ b) = .ok (.setTrHour b) ∧ decode (0x83#8 ++ b) = .ok (.setTrDow b) ∧
    decode (0x84#8 ++ b) = .ok (.setTrDate b) ∧ decode (0x85#8 ++ b) = .ok (.setTrMonth b) ∧
    decode (0x86#8 ++ b) = .ok (.setTrYear b)) ∧
  (∀ (view : View) (mode : Mode),
    decode (0x9000 ||| (view.bit.setWidth 16 <<< 4) ||| mode.bit.setWidth 16) = .ok (.setCtlMonth view mode) ∧
    decode (0x9002 ||| (view.bit.setWidth 16 <<< 4) ||| mode.bit.setWidth 16) = .ok (.setCtlDay view mode) ∧
    decode (0x9004 ||| (view.bit.setWidth 16 <<< 4) ||| mode.bit.setWidth 16) = .ok (.setCtlYear view mode) ∧
    decode (0x9006 ||| (view.bit.setWidth 16 <<< 4) ||| mode.bit.setWidth 16) = .ok (.setCtlHour view mode) ∧
    decode (0x9008 ||| (view.bit.setWidth 16 <<< 4) ||| mode.bit.setWidth 16) = .ok (.setCtlMinute view mode))

/-- R75 (the spec's own choice, its decision D16): a reserved word is refused for the first reason that applies, in the
rule's order, and every other word spells an operation. -/
def Obligations.ReservedWordsRefusedInOrder : Prop :=
  ∀ w : Word,
    (reservedOpcode w → decode w = .error .rsvOpcode) ∧
    (¬ reservedOpcode w → reservedBits w → decode w = .error .rsvBits) ∧
    (¬ reservedOpcode w → ¬ reservedBits w → reservedSel w → decode w = .error .rsvSel) ∧
    (¬ reservedOpcode w → ¬ reservedBits w → ¬ reservedSel w → reservedField w → decode w = .error .rsvField) ∧
    (¬ reservedOpcode w → ¬ reservedBits w → ¬ reservedSel w → ¬ reservedField w → ∃ i, decode w = .ok i)

/-- R74: one word of each family, written out from its format. -/
def Obligations.WordsOfEachFamily : Prop :=
  decode 0b0001000000010111 = .ok (.toBcd 23) ∧
  decode 0b0010001001100001 = .ok (.decHour 0x61) ∧
  decode 0b0011001100001101 = .ok (.encHour 13) ∧
  decode 0b0100000000000000 = .ok .tick ∧
  decode 0b0101000000000000 = .ok .render ∧
  decode 0b0110000000001001 = .ok .renderDateOvlDay ∧
  decode 0b0111000000001011 = .ok .renderTimeOvlHour ∧
  decode 0b1000011000100110 = .ok (.setTrYear 0x26) ∧
  decode 0b1001000000000011 = .ok (.setCtlDay .time .set)

/-- R78 (the spec's own choice, its decision D1): the words each pseudo-operation expands to. -/
def Obligations.PseudoOperations : Prop :=
  (∀ k, 1 ≤ k → Asm.assemble [.ticks k] = some (List.replicate k 0x4000)) ∧
  (∀ s mi h dw dt mo y : Byte,
    Asm.assemble [.loadTr s.toNat mi.toNat h.toNat dw.toNat dt.toNat mo.toNat y.toNat] =
      some [0x80#8 ++ s, 0x81#8 ++ mi, 0x82#8 ++ h, 0x83#8 ++ dw, 0x84#8 ++ dt, 0x85#8 ++ mo, 0x86#8 ++ y]) ∧
  Asm.assemble [.sentinels] = some [0x8000, 0x8301]

/-! ### Steps and outcomes -/

/-- R200, R224: when the next word spells an operation, the step is that operation's `exec` on the state in which the word
has been presented. -/
def Obligations.StepRunsDecodedOperation : Prop :=
  ∀ (s : State) (w : Word) (rest : List Word) (i : Instr),
    s.Running → s.pending = w :: rest → decode w = .ok i → step s = exec i { s with pending := rest }

/-- R10, R220, R224: when the next word is refused, the step sets `REFUSED` to the reason and the word and makes no other
write. -/
def Obligations.StepRefusesReservedWord : Prop :=
  ∀ (s : State) (w : Word) (rest : List Word) (r : RefusalReason),
    s.Running → s.pending = w :: rest → decode w = .error r →
      step s = .next { s with pending := rest, refused := some ⟨r, w⟩ }

/-- The model's choice of log entry 2, from "it waits for operation words from the host and ticks from the tick agent": with
no word presented the block waits unchanged. -/
def Obligations.NothingPresentedWaits : Prop := ∀ s : State, s.Running → s.pending = [] → step s = .next s

/-- R223, with the stop of log entry 3: a state with a mark set has no next step, so no operation, host action or tick
clears it; power-on reset does. -/
def Obligations.MarkedStateHasNoStep : Prop :=
  (∀ s : State, s.AbnormalEnd → ∃ f, step s = .fault f) ∧
  (∀ s t : State, step s = .next t → s.Running) ∧
  (∀ s : State, (powerOn s).Running)

/-- R220, with the presentation of log entry 1: a step on a presented word has exactly one of the three outcomes: the
operation's own next state, or a fault or refusal that sets its mark and makes no other write. -/
def Obligations.EveryStepHasOneOutcome : Prop :=
  ∀ (s : State) (w : Word) (rest : List Word), s.Running → s.pending = w :: rest →
    ∃ t, step s = .next t ∧
      ((t.Running ∧ ∃ i, decode w = .ok i ∧ exec i { s with pending := rest } = .next t) ∨
       (∃ m, t = { s with pending := rest, fault := some m } ∧ ∃ i, decode w = .ok i) ∨
       (∃ r, t = { s with pending := rest, refused := some ⟨r, w⟩ } ∧ decode w = .error r))

/-- R205, R223: every run of finitely many words ends, within as many steps as there are words, normally or with a mark. The
list of words is the model's own field (log entry 1), and a normal end is one after all its words, trailing ticks included
(log entry 22). -/
def Obligations.EveryRunEnds : Prop :=
  ∀ s : State, s.Running →
    ∃ k t, k ≤ s.pending.length ∧ core.run k s = .next t ∧ (t.NormalEnd ∨ t.AbnormalEnd)

/-- R253, R203, R258: once the host has booted the block, words that spell operations and clamp first never set a mark: the
run ends normally, after all words of the list (log entries 1 and 22). -/
def Obligations.ObedientHostEndsNormally : Prop :=
  ∀ s : State, s.Running → s.Booted → (∀ w ∈ s.pending, ObedientWord w) →
    ∃ t : State, core.run s.pending.length s = .next t ∧ t.NormalEnd ∧ t.Booted

/-! ### Reset and invariants -/

/-- R250: power-on reset sets every row to its reset value, whatever the parameters and whatever the state before. The rows
but `BC`, `BF` and `CTL.mode` are the spec's own choice, its decision D22. -/
def Obligations.PowerOnResetValues : Prop :=
  (∀ p : Params, atReset (State.resetWith p)) ∧ (∀ s : State, atReset (powerOn s)) ∧ atReset State.reset

/-- R26, R50, R54, R57: the invariant of the machine holds at power-on, for all parameters. -/
def Obligations.ResetMeetsInvariant : Prop := ∀ p : Params, (State.resetWith p).Inv

/-- R26, R29, R50, R54, R57, R220: every step keeps the invariant of the machine, from every state that meets it. -/
def Obligations.StepKeepsInvariant : Prop := ∀ s t : State, s.Inv → step s = .next t → t.Inv

/-- R26, which the spec marks as derived from R20 and R141: `BF ∈ {0x00, 0xFF}` and `BC ≤ BLINK_THRESHOLD` hold at reset and
are kept by every operation, and only TICK changes either. -/
def Obligations.BlinkStateInvariant : Prop :=
  (∀ p : Params, (State.resetWith p).BlinkInv) ∧
  (∀ (i : Instr) (s t : State), s.BlinkInv → exec i s = .next t → t.BlinkInv) ∧
  (∀ (i : Instr) (s t : State), exec i s = .next t → (t.bc ≠ s.bc ∨ t.bf ≠ s.bf) → i = .tick)

/-! ### TICK -/

/-- R141: TICK, the word 0x4000, counts, and above the threshold resets the count and inverts the flag; it changes nothing
else. The comparison and the byte complement are the spec's decisions D9 and D10; in a state that breaks R26, which no run
reaches, the same comparison is the model's choice of log entry 8. -/
def Obligations.TickAdvancesBlinkCounter : Prop :=
  decode 0x4000 = .ok .tick ∧ ∀ s : State, exec .tick s =
    .next (if s.params.blinkThreshold.toNat < s.bc.toNat + 1 then { s with bc := 0, bf := ~~~ s.bf }
      else { s with bc := s.bc + 1 })

/-- R142, which the spec marks as derived from R141 and R20: after t ticks from `BC = 0`, `BF = 0x00`, the count is t mod P and the flag is set when t / P is odd; P is 101 by
default and 100 for a threshold of 99. -/
def Obligations.BlinkPeriod : Prop :=
  (∀ (s : State) (t : Nat), s.bc = 0 → s.bf = 0x00 →
    afterTicks t s = some { s with
      bc := BitVec.ofNat 8 (t % s.params.blinkPeriod)
      bf := if t / s.params.blinkPeriod % 2 = 1 then 0xFF else 0x00 }) ∧
  Params.default.blinkPeriod = 101 ∧ (∀ p : Params, p.blinkThreshold = 99 → p.blinkPeriod = 100)

/-- R143: no host operation writes `BC` or `BF` and none reads `BC`; only power-on resets them. -/
def Obligations.HostLeavesBlinkState : Prop :=
  (∀ (i : Instr) (s t : State), i ≠ .tick → exec i s = .next t → t.bc = s.bc ∧ t.bf = s.bf) ∧
  (∀ (i : Instr) (s : State) (x : Byte), i ≠ .tick →
    ∃ t, exec i s = .next t ∧ exec i { s with bc := x } = .next { t with bc := x }) ∧
  (∀ s : State, (powerOn s).bc = 0 ∧ (powerOn s).bf = 0x00)

/-- R35, R200: what the host observes after one of its operations does not depend on `BC`, nor on anything else it cannot
observe, even where it may observe `BF` itself, as R200 has it against R35 (log entry 21). -/
def Obligations.HostCannotObserveCount : Prop :=
  ∀ (i : Instr) (s s' t t' : State), i ≠ .tick → s.rowView = s'.rowView → s.params = s'.params →
    exec i s = .next t → exec i s' = .next t' → t.rowView = t'.rowView

/-- R144, R142: in every infinite execution that is fair to the tick agent the flag inverts again and again. -/
def Obligations.FairExecutionInvertsFlag : Prop :=
  ∀ (words : Nat → Word) (states : Nat → State), IsExecution words states → FairToTick words →
    ∀ n, ∃ m, n < m ∧ (states m).bf = ~~~ (states n).bf

/-! ### BCD codec -/

/-- R105: TO_BCD latches the packed byte of a count of at most 99, and faults with the count above. -/
def Obligations.ToBcdPacksCount : Prop :=
  ∀ (n : Byte) (s : State), decode (0x10#8 ++ n) = .ok (.toBcd n) ∧
    (n.toNat ≤ 99 → exec (.toBcd n) s = .next { s with rByte := .holds (bcdByte n.toNat) }) ∧
    (99 < n.toNat → exec (.toBcd n) s = .next { s with fault := some (.bcdRange n) })

/-- R106, R107, R109 to R112: each DEC latches the tens and units digits of its field's layout and nothing else. -/
def Obligations.DecodeLatchesDigits : Prop :=
  ∀ (b : Byte) (s : State),
    decode (0x20#8 ++ b) = .ok (.decSec b) ∧ decode (0x21#8 ++ b) = .ok (.decMin b) ∧
    decode (0x23#8 ++ b) = .ok (.decDow b) ∧ decode (0x24#8 ++ b) = .ok (.decDate b) ∧
    decode (0x25#8 ++ b) = .ok (.decMonth b) ∧ decode (0x26#8 ++ b) = .ok (.decYear b) ∧
    exec (.decSec b) s =
      .next { s with rTens := .holds ((b.extractLsb' 4 3).setWidth 4), rUnits := .holds (b.extractLsb' 0 4) } ∧
    exec (.decMin b) s =
      .next { s with rTens := .holds ((b.extractLsb' 4 3).setWidth 4), rUnits := .holds (b.extractLsb' 0 4) } ∧
    exec (.decDow b) s =
      .next { s with rTens := .holds 0, rUnits := .holds ((b.extractLsb' 0 3).setWidth 4) } ∧
    exec (.decDate b) s =
      .next { s with rTens := .holds ((b.extractLsb' 4 2).setWidth 4), rUnits := .holds (b.extractLsb' 0 4) } ∧
    exec (.decMonth b) s =
      .next { s with rTens := .holds ((b.extractLsb' 4 1).setWidth 4), rUnits := .holds (b.extractLsb' 0 4) } ∧
    exec (.decYear b) s =
      .next { s with rTens := .holds (b.extractLsb' 4 4), rUnits := .holds (b.extractLsb' 0 4) }

/-- R108, with the spec's decision D7: DEC.HOUR takes bit 4 as tens in 12-hour mode and bits 5:4 in 24-hour mode. -/
def Obligations.DecodeHourByItsModeBit : Prop :=
  ∀ (b : Byte) (s : State), decode (0x22#8 ++ b) = .ok (.decHour b) ∧
    (b.getLsbD 6 = true → exec (.decHour b) s =
      .next { s with rTens := .holds ((b.extractLsb' 4 1).setWidth 4), rUnits := .holds (b.extractLsb' 0 4) }) ∧
    (b.getLsbD 6 = false → exec (.decHour b) s =
      .next { s with rTens := .holds ((b.extractLsb' 4 2).setWidth 4), rUnits := .holds (b.extractLsb' 0 4) })

/-- R113, R114, R117: ENC.MONTH, ENC.DAY and ENC.MINUTE clamp, pack, latch and commit, and never fault. -/
def Obligations.EncodeClampsAndCommits : Prop :=
  ∀ (v : Byte) (s : State),
    decode (0x30#8 ++ v) = .ok (.encMonth v) ∧ decode (0x31#8 ++ v) = .ok (.encDay v) ∧
    decode (0x34#8 ++ v) = .ok (.encMinute v) ∧
    exec (.encMonth v) s = .next { s with
      rByte := .holds (bcdByte (min v.toNat 12) &&& 0x1F), rCnt := .holds (BitVec.ofNat 8 (min v.toNat 12))
      tr := s.tr.write 5 (bcdByte (min v.toNat 12) &&& 0x1F) } ∧
    exec (.encDay v) s = .next { s with
      rByte := .holds (bcdByte (min v.toNat 31) &&& 0x3F), rCnt := .holds (BitVec.ofNat 8 (min v.toNat 31))
      tr := s.tr.write 4 (bcdByte (min v.toNat 31) &&& 0x3F) } ∧
    exec (.encMinute v) s = .next { s with
      rByte := .holds (bcdByte (min v.toNat 59) &&& 0x7F), rCnt := .holds (BitVec.ofNat 8 (min v.toNat 59))
      tr := s.tr.write 1 (bcdByte (min v.toNat 59) &&& 0x7F) }

/-- R115, with the spec's decision D15: ENC.YEAR commits a count of at most 99 unclamped, and faults with the count above,
writing nothing else. -/
def Obligations.EncodeYearCommitsOrFaults : Prop :=
  ∀ (v : Byte) (s : State), decode (0x32#8 ++ v) = .ok (.encYear v) ∧
    (v.toNat ≤ 99 → exec (.encYear v) s = .next { s with
      rByte := .holds (bcdByte v.toNat), rCnt := .holds v, tr := s.tr.write 6 (bcdByte v.toNat) }) ∧
    (99 < v.toNat → exec (.encYear v) s = .next { s with fault := some (.bcdRange v) })

/-- R116, with the spec's decision D18: ENC.HOUR commits the 12-hour form, with bit 6 always and bit 5 above 12, under both
settings of `HOUR_PM_SUBTRACT`. -/
def Obligations.EncodeHourTwelveHourForm : Prop :=
  ∀ (v : Byte) (s : State), decode (0x33#8 ++ v) = .ok (.encHour v) ∧
    let c := min v.toNat 23
    let h := if s.params.hourPmSubtract = true ∧ 12 < c then c - 12 else c
    let b := bcdByte h ||| 0x40 ||| (if 12 < c then 0x20 else 0x00)
    exec (.encHour v) s = .next { s with
      rByte := .holds b, rCnt := .holds (BitVec.ofNat 8 c), tr := s.tr.write 2 b }

/-- R118, laws 2 and 4: what TO_BCD packs DEC.YEAR takes apart again, and up to 59 so do DEC.SEC and DEC.MIN; packing is
monotone. -/
def Obligations.CodecRoundTrip : Prop :=
  (∀ (n : Byte) (s : State), n.toNat ≤ 99 →
    ∃ t b, exec (.toBcd n) s = .next t ∧ t.rByte = .holds b ∧
      (let u : State := { t with
        rTens := .holds (BitVec.ofNat 4 (n.toNat / 10)), rUnits := .holds (BitVec.ofNat 4 (n.toNat % 10)) }
       exec (.decYear b) t = .next u ∧
       (n.toNat ≤ 59 → exec (.decSec b) t = .next u ∧ exec (.decMin b) t = .next u))) ∧
  (∀ (n n' : Byte) (s : State), n.toNat ≤ n'.toNat → n'.toNat ≤ 99 →
    ∃ t t' b b', exec (.toBcd n) s = .next t ∧ exec (.toBcd n') s = .next t' ∧
      t.rByte = .holds b ∧ t'.rByte = .holds b' ∧ b.toNat ≤ b'.toNat)

/-- R120: every byte an ENC commits meets the range and layout of its field, zero counts and `HOUR_PM_SUBTRACT = false`
apart as the rule says. -/
def Obligations.CommittedBytesComply : Prop :=
  ∀ (f : Field) (v : Byte) (s t : State), s.fault = none → exec (.encOf f v) s = .next t → t.fault = none →
    ∃ b, t.tr.read (committedTo f).index = some b ∧ t.rByte = .holds b ∧ compliant s.params f v b

/-- R60: SET_TR, SET_CTL and ENC.* are idempotent; TICK is not, in any state. -/
def Obligations.RepeatingIsIdempotent : Prop :=
  (∀ (i : Instr) (s t : State), isIdempotent i → exec i s = .next t → exec i t = .next t) ∧
  (∀ s t : State, exec .tick s = .next t → exec .tick t ≠ .next t)

/-! ### Display multiplexer -/

/-- R166, with the spec's decision D32: RENDER_DATE, with every overlay operand, appends the six frames of the date view and
changes nothing else; it faults on the first of its bytes that is unwritten. -/
def Obligations.RenderDateEmitsDateView : Prop :=
  decode 0x6000 = .ok (.renderDateOf none) ∧
  (∀ f : Field, decode (0x6008 + f.code.setWidth 16) = .ok (.renderDateOf (some f))) ∧
  ∀ (ovl : Option Field) (s : State),
    (∀ mo dt yr, s.tr.read 5 = some mo → s.tr.read 4 = some dt → s.tr.read 6 = some yr →
      exec (.renderDateOf ovl) s =
        .next { s with frames := s.frames ++ dateFrames s.params.digitOrder ovl s.bf mo dt yr }) ∧
    (∀ f, firstUnwritten s (bytesOf .date) = some f →
      exec (.renderDateOf ovl) s = .next { s with fault := some (.unwritten (.tr f)) })

/-- R167: RENDER_TIME, with every overlay operand, appends the six frames of the time view and changes nothing else; it
faults on the first of its bytes that is unwritten. -/
def Obligations.RenderTimeEmitsTimeView : Prop :=
  decode 0x7000 = .ok (.renderTimeOf none) ∧
  (∀ f : Field, decode (0x7008 + f.code.setWidth 16) = .ok (.renderTimeOf (some f))) ∧
  ∀ (ovl : Option Field) (s : State),
    (∀ h mi sc, s.tr.read 2 = some h → s.tr.read 1 = some mi → s.tr.read 0 = some sc →
      exec (.renderTimeOf ovl) s =
        .next { s with frames := s.frames ++ timeFrames s.params.digitOrder ovl s.bf h mi sc }) ∧
    (∀ f, firstUnwritten s (bytesOf .time) = some f →
      exec (.renderTimeOf ovl) s = .next { s with fault := some (.unwritten (.tr f)) })

/-- R168, R169, R165, R170: in Run mode RENDER shows the view `CTL.view` selects without overlay and sets `IND` from the
hour byte. -/
def Obligations.RenderInRunMode : Prop :=
  ∀ (s : State) (h : Byte), s.ctlMode = .run → s.tr.read 2 = some h →
    (∀ mo dt yr, s.ctlView = .holds .date → s.tr.read 5 = some mo → s.tr.read 4 = some dt → s.tr.read 6 = some yr →
      exec .render s = .next { s with
        frames := s.frames ++ dateFrames s.params.digitOrder none s.bf mo dt yr
        ind := .holds (pmLamp s.params.pmIndMode h) }) ∧
    (∀ mi sc, s.ctlView = .holds .time → s.tr.read 1 = some mi → s.tr.read 0 = some sc →
      exec .render s = .next { s with
        frames := s.frames ++ timeFrames s.params.digitOrder none s.bf h mi sc
        ind := .holds (pmLamp s.params.pmIndMode h) })

/-- R168, R163, R170: in Set mode RENDER shows the view of the edited field with that field overlaid, and sets `IND` to 0
for a date field and 1 for a time field. -/
def Obligations.RenderInSetMode : Prop :=
  ∀ (s : State) (fl : Field), s.ctlMode = .set → s.ctlField = .holds fl →
    (∀ mo dt yr, (fl = .month ∨ fl = .day ∨ fl = .year) →
      s.tr.read 5 = some mo → s.tr.read 4 = some dt → s.tr.read 6 = some yr →
      exec .render s = .next { s with
        frames := s.frames ++ dateFrames s.params.digitOrder (some fl) s.bf mo dt yr, ind := .holds false }) ∧
    (∀ h mi sc, (fl = .hour ∨ fl = .minute) →
      s.tr.read 2 = some h → s.tr.read 1 = some mi → s.tr.read 0 = some sc →
      exec .render s = .next { s with
        frames := s.frames ++ timeFrames s.params.digitOrder (some fl) s.bf h mi sc, ind := .holds true })

/-- R224, R168: RENDER reports the first unwritten register in the order of its pseudocode and writes nothing else. -/
def Obligations.RenderFaultOrder : Prop :=
  ∀ s : State,
    (s.ctlMode = .run → s.ctlView = .unwritten →
      exec .render s = .next { s with fault := some (.unwritten .ctlView) }) ∧
    (∀ view, s.ctlMode = .run → s.ctlView = .holds view → s.tr.read 2 = none →
      exec .render s = .next { s with fault := some (.unwritten (.tr .hour)) }) ∧
    (∀ view f, s.ctlMode = .run → s.ctlView = .holds view → s.tr.read 2 ≠ none →
      firstUnwritten s (bytesOf view) = some f →
      exec .render s = .next { s with fault := some (.unwritten (.tr f)) }) ∧
    (s.ctlMode = .set → s.ctlField = .unwritten →
      exec .render s = .next { s with fault := some (.unwritten .ctlField) }) ∧
    (∀ fl f, s.ctlMode = .set → s.ctlField = .holds fl → (fl = .month ∨ fl = .day ∨ fl = .year) →
      firstUnwritten s [.month, .date, .year] = some f →
      exec .render s = .next { s with fault := some (.unwritten (.tr f)) }) ∧
    (∀ fl f, s.ctlMode = .set → s.ctlField = .holds fl → (fl = .hour ∨ fl = .minute) →
      firstUnwritten s [.hour, .minute, .second] = some f →
      exec .render s = .next { s with fault := some (.unwritten (.tr f)) })

/-- R169: in Run mode what RENDER does depends neither on `CTL.field` nor on `BF`. -/
def Obligations.RunModeNeverOverlays : Prop :=
  ∀ (s : State) (fl : Latch Field) (x : Byte), s.ctlMode = .run →
    ∃ t, exec .render s = .next t ∧
      exec .render { s with ctlField := fl, bf := x } = .next { t with ctlField := fl, bf := x }

/-- R163, R257: in Set mode the blink flag reaches the pair of the edited field and no other, and that pair is 0xF in both
digits while the flag is set. -/
def Obligations.OverlayReachesOnlyEditedPair : Prop :=
  ∀ (s t u : State) (fl : Field) (x : Byte), s.ctlMode = .set → s.ctlField = .holds fl → s.fault = none →
    exec .render { s with bf := x } = .next t → exec .render { s with bf := 0xFF } = .next u → u.fault = none →
    ∃ fs gs, t.frames = s.frames ++ fs ∧ u.frames = s.frames ++ gs ∧ fs.length = 6 ∧ gs.length = 6 ∧
      (∀ k, k ≠ (editedSlots s.params.digitOrder fl).1 → k ≠ (editedSlots s.params.digitOrder fl).2 → fs[k]? = gs[k]?) ∧
      (∀ k, k = (editedSlots s.params.digitOrder fl).1 ∨ k = (editedSlots s.params.digitOrder fl).2 →
        gs[k]? = some ⟨BitVec.ofNat 8 (k + 1), 0x0F⟩)

/-- R160, R164, R54, R57: a render either faults and emits nothing or appends exactly six frames, to addresses 1 to 6 in
ascending order, each with a nibble as data. -/
def Obligations.EveryPassEmitsSixFrames : Prop :=
  ∀ (i : Instr) (s : State), isRender i →
    ∃ t, exec i s = .next t ∧
      ((∃ m, t = { s with fault := some m }) ∨
       (∃ fs, t.frames = s.frames ++ fs ∧ t.fault = s.fault ∧ fs.map Frame.addr = [1, 2, 3, 4, 5, 6] ∧
        ∀ f ∈ fs, f.data.toNat < 16))

/-- R60: two passes with the same Time Record bytes, `CTL` and `BF` emit the same frames. -/
def Obligations.SameInputsSameFrames : Prop :=
  ∀ (i : Instr) (s s' t t' : State), isRender i → s.params = s'.params →
    (∀ a, s.tr.read a = s'.tr.read a) → s.ctlMode = s'.ctlMode → s.ctlField = s'.ctlField → s.ctlView = s'.ctlView →
    s.bf = s'.bf → exec i s = .next t → exec i s' = .next t' →
    ∃ fs, t.frames = s.frames ++ fs ∧ t'.frames = s'.frames ++ fs

/-- R259, R163, R116: after the commit of the edited field, RENDER in Set mode with the flag clear shows the digits of the
clamped count in that field's pair; of an hour, those of its 12-hour form, whose tens digit is one bit. -/
def Obligations.CommitThenRenderShowsCount : Prop :=
  ∀ (s : State) (f : Field) (v : Byte), s.Booted → s.ctlMode = .set → s.ctlField = .holds f → s.bf = 0x00 →
    (f = .year → v.toNat ≤ 99) →
    ∃ t u fs, exec (.encOf f v) s = .next t ∧ exec .render t = .next u ∧ u.frames = s.frames ++ fs ∧
      (let c := min v.toNat (maxCount f)
       let n := if f = .hour ∧ s.params.hourPmSubtract = true ∧ 12 < c then c - 12 else c
       let tens := if f = .hour then n / 10 % 2 else n / 10
       let slots := editedSlots s.params.digitOrder f
       fs[slots.1]? = some ⟨BitVec.ofNat 8 (slots.1 + 1), BitVec.ofNat 8 tens⟩ ∧
       fs[slots.2]? = some ⟨BitVec.ofNat 8 (slots.2 + 1), BitVec.ofNat 8 (n % 10)⟩)

/-! ### Host port -/

/-- R201: SET_TR stores its byte at its index, whatever the byte, and changes nothing else; index 7 is refused. -/
def Obligations.SetTrStoresByte : Prop :=
  (∀ (b : Byte) (s : State),
    exec (.setTrSec b) s = .next { s with tr := s.tr.write 0 b } ∧
    exec (.setTrMin b) s = .next { s with tr := s.tr.write 1 b } ∧
    exec (.setTrHour b) s = .next { s with tr := s.tr.write 2 b } ∧
    exec (.setTrDow b) s = .next { s with tr := s.tr.write 3 b } ∧
    exec (.setTrDate b) s = .next { s with tr := s.tr.write 4 b } ∧
    exec (.setTrMonth b) s = .next { s with tr := s.tr.write 5 b } ∧
    exec (.setTrYear b) s = .next { s with tr := s.tr.write 6 b }) ∧
  (∀ (f : TrField) (b : Byte), decode (0x8#4 ++ 0#1 ++ BitVec.ofNat 3 f.index ++ b) = .ok (.setTrOf f b)) ∧
  (∀ (m : Memory) (i : Nat) (b : Byte), (m.write i b).read i = some b) ∧
  (∀ b : Byte, decode (0x87#8 ++ b) = .error .rsvSel)

/-- R202: SET_CTL latches mode, field and view and changes nothing else; a field code above 4 is refused in either mode. -/
def Obligations.SetCtlLatchesAllThree : Prop :=
  (∀ (view : View) (mode : Mode) (s : State),
    exec (.setCtlMonth view mode) s =
      .next { s with ctlMode := mode, ctlField := .holds .month, ctlView := .holds view } ∧
    exec (.setCtlDay view mode) s =
      .next { s with ctlMode := mode, ctlField := .holds .day, ctlView := .holds view } ∧
    exec (.setCtlYear view mode) s =
      .next { s with ctlMode := mode, ctlField := .holds .year, ctlView := .holds view } ∧
    exec (.setCtlHour view mode) s =
      .next { s with ctlMode := mode, ctlField := .holds .hour, ctlView := .holds view } ∧
    exec (.setCtlMinute view mode) s =
      .next { s with ctlMode := mode, ctlField := .holds .minute, ctlView := .holds view }) ∧
  (∀ (f : Field) (view : View) (mode : Mode),
    decode (0x9#4 ++ 0#7 ++ view.bit ++ f.code ++ mode.bit) = .ok (.setCtlOf f view mode)) ∧
  (∀ (view : BitVec 1) (fld : BitVec 3) (mode : BitVec 1), 5 ≤ fld.toNat →
    decode (0x9#4 ++ 0#7 ++ view ++ fld ++ mode) = .error .rsvField)

/-! ### Memory and frames -/

/-- R51, R52, with the spec's decision D22: a byte just written reads back whole, every other index reads as before, and an
unwritten one faults UNWRITTEN. -/
def Obligations.TimeRecordReadAfterWrite : Prop :=
  ∀ (f g : TrField) (v : Byte) (s : State),
    (s.tr.read f.index = some v → memRead f s = .ok v) ∧
    memRead f (memWrite f v s) = .ok v ∧
    (f ≠ g → memRead g (memWrite f v s) = memRead g s) ∧
    (s.tr.read f.index = none → memRead f s = .error (.unwritten (.tr f)))

/-- R53: a byte of the Time Record changes only by SET_TR of its index or by the ENC of the field committed there. -/
def Obligations.OnlyTableWritesReachTimeRecord : Prop :=
  ∀ (i : Instr) (s t : State) (a : Nat), exec i s = .next t → t.tr.read a ≠ s.tr.read a →
    (a = 0 ∧ ∃ b, i = .setTrSec b) ∨
    (a = 1 ∧ ((∃ b, i = .setTrMin b) ∨ ∃ v, i = .encMinute v)) ∨
    (a = 2 ∧ ((∃ b, i = .setTrHour b) ∨ ∃ v, i = .encHour v)) ∨
    (a = 3 ∧ ∃ b, i = .setTrDow b) ∨
    (a = 4 ∧ ((∃ b, i = .setTrDate b) ∨ ∃ v, i = .encDay v)) ∨
    (a = 5 ∧ ((∃ b, i = .setTrMonth b) ∨ ∃ v, i = .encMonth v)) ∨
    (a = 6 ∧ ((∃ b, i = .setTrYear b) ∨ ∃ v, i = .encYear v))

/-- R53, R161: no operation reads day_of_week, so two states that differ only there stay so. -/
def Obligations.DayOfWeekIsNeverRead : Prop :=
  ∀ (i : Instr) (s s' t t' : State), agreeButDayOfWeek s s' →
    exec i s = .next t → exec i s' = .next t' → agreeButDayOfWeek t t'

/-- R221: which operations fault, with which reason and info, and when. -/
def Obligations.FaultCauses : Prop :=
  (∀ (i : Instr) (s t : State), exec i s = .next t → t.fault ≠ s.fault →
    (∃ n, i = .toBcd n ∧ 99 < n.toNat ∧ t.fault = some (.bcdRange n)) ∨
    (∃ v, i = .encYear v ∧ 99 < v.toNat ∧ t.fault = some (.bcdRange v)) ∨
    (isRender i ∧ ∃ r, r ≠ .tr .dayOfWeek ∧ t.fault = some (.unwritten r) ∧ holdsBottom s r)) ∧
  (∀ n, (FaultMark.bcdRange n).code = 1) ∧ (∀ r, (FaultMark.unwritten r).code = 2)

/-- R27, R53: the frame of TO_BCD and DEC.*: no byte of the Time Record and no latch changes but the ones the rule names. -/
def Obligations.CodecLatchFrame : Prop :=
  (∀ (n : Byte) (s t : State), exec (.toBcd n) s = .next t →
    (∀ a, t.tr.read a = s.tr.read a) ∧ t.ctlMode = s.ctlMode ∧ t.ctlField = s.ctlField ∧ t.ctlView = s.ctlView ∧
    t.bc = s.bc ∧ t.bf = s.bf ∧ t.rCnt = s.rCnt ∧ t.rTens = s.rTens ∧ t.rUnits = s.rUnits ∧ t.ind = s.ind ∧
    t.frames = s.frames ∧ t.refused = s.refused ∧ t.params = s.params ∧ t.pending = s.pending ∧
    (n.toNat ≤ 99 → t.fault = s.fault) ∧ (99 < n.toNat → t.rByte = s.rByte)) ∧
  (∀ (f : TrField) (b : Byte) (s t : State), exec (.decOf f b) s = .next t →
    (∀ a, t.tr.read a = s.tr.read a) ∧ t.ctlMode = s.ctlMode ∧ t.ctlField = s.ctlField ∧ t.ctlView = s.ctlView ∧
    t.bc = s.bc ∧ t.bf = s.bf ∧ t.rByte = s.rByte ∧ t.rCnt = s.rCnt ∧ t.ind = s.ind ∧ t.frames = s.frames ∧
    t.fault = s.fault ∧ t.refused = s.refused ∧ t.params = s.params ∧ t.pending = s.pending)

/-- R27, R53, R104: the frame of ENC.*: of the Time Record only the byte of the committed field changes, of the latches only
`R_BYTE` and `R_CNT`. -/
def Obligations.CommitFrame : Prop :=
  ∀ (f : Field) (v : Byte) (s t : State), exec (.encOf f v) s = .next t →
    (∀ a, a ≠ (committedTo f).index → t.tr.read a = s.tr.read a) ∧
    t.ctlMode = s.ctlMode ∧ t.ctlField = s.ctlField ∧ t.ctlView = s.ctlView ∧ t.bc = s.bc ∧ t.bf = s.bf ∧
    t.rTens = s.rTens ∧ t.rUnits = s.rUnits ∧ t.ind = s.ind ∧ t.frames = s.frames ∧ t.refused = s.refused ∧
    t.params = s.params ∧ t.pending = s.pending ∧ ((f ≠ .year ∨ v.toNat ≤ 99) → t.fault = s.fault) ∧
    ((f = .year ∧ 99 < v.toNat) → t.rByte = s.rByte ∧ t.rCnt = s.rCnt ∧ ∀ a, t.tr.read a = s.tr.read a)

/-- R53, R201, R202: the frame of SET_TR and SET_CTL. -/
def Obligations.HostPortFrame : Prop :=
  (∀ (f : TrField) (b : Byte) (s t : State), exec (.setTrOf f b) s = .next t →
    (∀ a, a ≠ f.index → t.tr.read a = s.tr.read a) ∧
    t.ctlMode = s.ctlMode ∧ t.ctlField = s.ctlField ∧ t.ctlView = s.ctlView ∧ t.bc = s.bc ∧ t.bf = s.bf ∧
    t.rByte = s.rByte ∧ t.rCnt = s.rCnt ∧ t.rTens = s.rTens ∧ t.rUnits = s.rUnits ∧ t.ind = s.ind ∧
    t.frames = s.frames ∧ t.fault = s.fault ∧ t.refused = s.refused ∧ t.params = s.params ∧ t.pending = s.pending) ∧
  (∀ (f : Field) (view : View) (mode : Mode) (s t : State), exec (.setCtlOf f view mode) s = .next t →
    (∀ a, t.tr.read a = s.tr.read a) ∧ t.bc = s.bc ∧ t.bf = s.bf ∧ t.rByte = s.rByte ∧ t.rCnt = s.rCnt ∧
    t.rTens = s.rTens ∧ t.rUnits = s.rUnits ∧ t.ind = s.ind ∧ t.frames = s.frames ∧ t.fault = s.fault ∧
    t.refused = s.refused ∧ t.params = s.params ∧ t.pending = s.pending)

/-- R28, R53, R166, R167: the frame of the render operations: no byte of the Time Record changes, no latch, and `IND` only
by RENDER. -/
def Obligations.RenderFrame : Prop :=
  ∀ (i : Instr) (s t : State), isRender i → exec i s = .next t →
    (∀ a, t.tr.read a = s.tr.read a) ∧ t.ctlMode = s.ctlMode ∧ t.ctlField = s.ctlField ∧ t.ctlView = s.ctlView ∧
    t.bc = s.bc ∧ t.bf = s.bf ∧ t.rByte = s.rByte ∧ t.rCnt = s.rCnt ∧ t.rTens = s.rTens ∧ t.rUnits = s.rUnits ∧
    t.refused = s.refused ∧ t.params = s.params ∧ t.pending = s.pending ∧ (i ≠ .render → t.ind = s.ind)

/-- R6 and log entries 1 and 5: no operation changes the parameters or the words still to be presented. -/
def Obligations.OperationsKeepConfiguration : Prop :=
  ∀ (i : Instr) (s t : State), exec i s = .next t → t.params = s.params ∧ t.pending = s.pending

/-! ### What the host sees of the blink flag -/

/-- R35, in the view of log entry 21: a host operation lets `BF` reach nothing but the data of the frames a render emits, and
a tick changes nothing the host sees. -/
def Obligations.FlagReachesHostOnlyInFrames : Prop :=
  (∀ (i : Instr) (s : State) (x : Byte), i ≠ .tick →
    ∃ t u, exec i s = .next t ∧ exec i { s with bf := x } = .next u ∧
      u = { t with bf := x, frames := u.frames } ∧
      u.frames.map Frame.addr = t.frames.map Frame.addr ∧ (¬ isRender i → u.frames = t.frames)) ∧
  (∀ s t : State, exec .tick s = .next t → t.hostView = s.hostView)
end

