-- ==== Sys2Proof/Laws/State.lean ====
section
/-!
SUPPORT. One lemma per field per update of the state, so that no later proof unfolds a record update.
-/

namespace Sys2Proof.Machine

@[simp] theorem memWrite_tr (f : TrField) (v : Byte) (s : State) :
    (memWrite f v s).tr = s.tr.write f.index v := rfl
@[simp] theorem memWrite_ctlMode (f : TrField) (v : Byte) (s : State) :
    (memWrite f v s).ctlMode = s.ctlMode := rfl
@[simp] theorem memWrite_ctlField (f : TrField) (v : Byte) (s : State) :
    (memWrite f v s).ctlField = s.ctlField := rfl
@[simp] theorem memWrite_ctlView (f : TrField) (v : Byte) (s : State) :
    (memWrite f v s).ctlView = s.ctlView := rfl
@[simp] theorem memWrite_bc (f : TrField) (v : Byte) (s : State) :
    (memWrite f v s).bc = s.bc := rfl
@[simp] theorem memWrite_bf (f : TrField) (v : Byte) (s : State) :
    (memWrite f v s).bf = s.bf := rfl
@[simp] theorem memWrite_rByte (f : TrField) (v : Byte) (s : State) :
    (memWrite f v s).rByte = s.rByte := rfl
@[simp] theorem memWrite_rCnt (f : TrField) (v : Byte) (s : State) :
    (memWrite f v s).rCnt = s.rCnt := rfl
@[simp] theorem memWrite_rTens (f : TrField) (v : Byte) (s : State) :
    (memWrite f v s).rTens = s.rTens := rfl
@[simp] theorem memWrite_rUnits (f : TrField) (v : Byte) (s : State) :
    (memWrite f v s).rUnits = s.rUnits := rfl
@[simp] theorem memWrite_ind (f : TrField) (v : Byte) (s : State) :
    (memWrite f v s).ind = s.ind := rfl
@[simp] theorem memWrite_frames (f : TrField) (v : Byte) (s : State) :
    (memWrite f v s).frames = s.frames := rfl
@[simp] theorem memWrite_fault (f : TrField) (v : Byte) (s : State) :
    (memWrite f v s).fault = s.fault := rfl
@[simp] theorem memWrite_refused (f : TrField) (v : Byte) (s : State) :
    (memWrite f v s).refused = s.refused := rfl
@[simp] theorem memWrite_params (f : TrField) (v : Byte) (s : State) :
    (memWrite f v s).params = s.params := rfl
@[simp] theorem memWrite_pending (f : TrField) (v : Byte) (s : State) :
    (memWrite f v s).pending = s.pending := rfl

@[simp] theorem emitFrames_tr (fs : List Frame) (s : State) :
    (emitFrames fs s).tr = s.tr := rfl
@[simp] theorem emitFrames_ctlMode (fs : List Frame) (s : State) :
    (emitFrames fs s).ctlMode = s.ctlMode := rfl
@[simp] theorem emitFrames_ctlField (fs : List Frame) (s : State) :
    (emitFrames fs s).ctlField = s.ctlField := rfl
@[simp] theorem emitFrames_ctlView (fs : List Frame) (s : State) :
    (emitFrames fs s).ctlView = s.ctlView := rfl
@[simp] theorem emitFrames_bc (fs : List Frame) (s : State) :
    (emitFrames fs s).bc = s.bc := rfl
@[simp] theorem emitFrames_bf (fs : List Frame) (s : State) :
    (emitFrames fs s).bf = s.bf := rfl
@[simp] theorem emitFrames_rByte (fs : List Frame) (s : State) :
    (emitFrames fs s).rByte = s.rByte := rfl
@[simp] theorem emitFrames_rCnt (fs : List Frame) (s : State) :
    (emitFrames fs s).rCnt = s.rCnt := rfl
@[simp] theorem emitFrames_rTens (fs : List Frame) (s : State) :
    (emitFrames fs s).rTens = s.rTens := rfl
@[simp] theorem emitFrames_rUnits (fs : List Frame) (s : State) :
    (emitFrames fs s).rUnits = s.rUnits := rfl
@[simp] theorem emitFrames_ind (fs : List Frame) (s : State) :
    (emitFrames fs s).ind = s.ind := rfl
@[simp] theorem emitFrames_frames (fs : List Frame) (s : State) :
    (emitFrames fs s).frames = s.frames ++ fs := rfl
@[simp] theorem emitFrames_fault (fs : List Frame) (s : State) :
    (emitFrames fs s).fault = s.fault := rfl
@[simp] theorem emitFrames_refused (fs : List Frame) (s : State) :
    (emitFrames fs s).refused = s.refused := rfl
@[simp] theorem emitFrames_params (fs : List Frame) (s : State) :
    (emitFrames fs s).params = s.params := rfl
@[simp] theorem emitFrames_pending (fs : List Frame) (s : State) :
    (emitFrames fs s).pending = s.pending := rfl

@[simp] theorem raiseFault_tr (m : FaultMark) (s : State) :
    (raiseFault m s).tr = s.tr := rfl
@[simp] theorem raiseFault_ctlMode (m : FaultMark) (s : State) :
    (raiseFault m s).ctlMode = s.ctlMode := rfl
@[simp] theorem raiseFault_ctlField (m : FaultMark) (s : State) :
    (raiseFault m s).ctlField = s.ctlField := rfl
@[simp] theorem raiseFault_ctlView (m : FaultMark) (s : State) :
    (raiseFault m s).ctlView = s.ctlView := rfl
@[simp] theorem raiseFault_bc (m : FaultMark) (s : State) :
    (raiseFault m s).bc = s.bc := rfl
@[simp] theorem raiseFault_bf (m : FaultMark) (s : State) :
    (raiseFault m s).bf = s.bf := rfl
@[simp] theorem raiseFault_rByte (m : FaultMark) (s : State) :
    (raiseFault m s).rByte = s.rByte := rfl
@[simp] theorem raiseFault_rCnt (m : FaultMark) (s : State) :
    (raiseFault m s).rCnt = s.rCnt := rfl
@[simp] theorem raiseFault_rTens (m : FaultMark) (s : State) :
    (raiseFault m s).rTens = s.rTens := rfl
@[simp] theorem raiseFault_rUnits (m : FaultMark) (s : State) :
    (raiseFault m s).rUnits = s.rUnits := rfl
@[simp] theorem raiseFault_ind (m : FaultMark) (s : State) :
    (raiseFault m s).ind = s.ind := rfl
@[simp] theorem raiseFault_frames (m : FaultMark) (s : State) :
    (raiseFault m s).frames = s.frames := rfl
@[simp] theorem raiseFault_fault (m : FaultMark) (s : State) :
    (raiseFault m s).fault = some m := rfl
@[simp] theorem raiseFault_refused (m : FaultMark) (s : State) :
    (raiseFault m s).refused = s.refused := rfl
@[simp] theorem raiseFault_params (m : FaultMark) (s : State) :
    (raiseFault m s).params = s.params := rfl
@[simp] theorem raiseFault_pending (m : FaultMark) (s : State) :
    (raiseFault m s).pending = s.pending := rfl

@[simp] theorem refuse_tr (r : RefusalReason) (w : Word) (s : State) :
    (refuse r w s).tr = s.tr := rfl
@[simp] theorem refuse_ctlMode (r : RefusalReason) (w : Word) (s : State) :
    (refuse r w s).ctlMode = s.ctlMode := rfl
@[simp] theorem refuse_ctlField (r : RefusalReason) (w : Word) (s : State) :
    (refuse r w s).ctlField = s.ctlField := rfl
@[simp] theorem refuse_ctlView (r : RefusalReason) (w : Word) (s : State) :
    (refuse r w s).ctlView = s.ctlView := rfl
@[simp] theorem refuse_bc (r : RefusalReason) (w : Word) (s : State) :
    (refuse r w s).bc = s.bc := rfl
@[simp] theorem refuse_bf (r : RefusalReason) (w : Word) (s : State) :
    (refuse r w s).bf = s.bf := rfl
@[simp] theorem refuse_rByte (r : RefusalReason) (w : Word) (s : State) :
    (refuse r w s).rByte = s.rByte := rfl
@[simp] theorem refuse_rCnt (r : RefusalReason) (w : Word) (s : State) :
    (refuse r w s).rCnt = s.rCnt := rfl
@[simp] theorem refuse_rTens (r : RefusalReason) (w : Word) (s : State) :
    (refuse r w s).rTens = s.rTens := rfl
@[simp] theorem refuse_rUnits (r : RefusalReason) (w : Word) (s : State) :
    (refuse r w s).rUnits = s.rUnits := rfl
@[simp] theorem refuse_ind (r : RefusalReason) (w : Word) (s : State) :
    (refuse r w s).ind = s.ind := rfl
@[simp] theorem refuse_frames (r : RefusalReason) (w : Word) (s : State) :
    (refuse r w s).frames = s.frames := rfl
@[simp] theorem refuse_fault (r : RefusalReason) (w : Word) (s : State) :
    (refuse r w s).fault = s.fault := rfl
@[simp] theorem refuse_refused (r : RefusalReason) (w : Word) (s : State) :
    (refuse r w s).refused = some ⟨r, w⟩ := rfl
@[simp] theorem refuse_params (r : RefusalReason) (w : Word) (s : State) :
    (refuse r w s).params = s.params := rfl
@[simp] theorem refuse_pending (r : RefusalReason) (w : Word) (s : State) :
    (refuse r w s).pending = s.pending := rfl

@[simp] theorem latchDigits_tr (d : Nibble × Nibble) (s : State) :
    (latchDigits d s).tr = s.tr := rfl
@[simp] theorem latchDigits_ctlMode (d : Nibble × Nibble) (s : State) :
    (latchDigits d s).ctlMode = s.ctlMode := rfl
@[simp] theorem latchDigits_ctlField (d : Nibble × Nibble) (s : State) :
    (latchDigits d s).ctlField = s.ctlField := rfl
@[simp] theorem latchDigits_ctlView (d : Nibble × Nibble) (s : State) :
    (latchDigits d s).ctlView = s.ctlView := rfl
@[simp] theorem latchDigits_bc (d : Nibble × Nibble) (s : State) :
    (latchDigits d s).bc = s.bc := rfl
@[simp] theorem latchDigits_bf (d : Nibble × Nibble) (s : State) :
    (latchDigits d s).bf = s.bf := rfl
@[simp] theorem latchDigits_rByte (d : Nibble × Nibble) (s : State) :
    (latchDigits d s).rByte = s.rByte := rfl
@[simp] theorem latchDigits_rCnt (d : Nibble × Nibble) (s : State) :
    (latchDigits d s).rCnt = s.rCnt := rfl
@[simp] theorem latchDigits_rTens (d : Nibble × Nibble) (s : State) :
    (latchDigits d s).rTens = .holds d.1 := rfl
@[simp] theorem latchDigits_rUnits (d : Nibble × Nibble) (s : State) :
    (latchDigits d s).rUnits = .holds d.2 := rfl
@[simp] theorem latchDigits_ind (d : Nibble × Nibble) (s : State) :
    (latchDigits d s).ind = s.ind := rfl
@[simp] theorem latchDigits_frames (d : Nibble × Nibble) (s : State) :
    (latchDigits d s).frames = s.frames := rfl
@[simp] theorem latchDigits_fault (d : Nibble × Nibble) (s : State) :
    (latchDigits d s).fault = s.fault := rfl
@[simp] theorem latchDigits_refused (d : Nibble × Nibble) (s : State) :
    (latchDigits d s).refused = s.refused := rfl
@[simp] theorem latchDigits_params (d : Nibble × Nibble) (s : State) :
    (latchDigits d s).params = s.params := rfl
@[simp] theorem latchDigits_pending (d : Nibble × Nibble) (s : State) :
    (latchDigits d s).pending = s.pending := rfl

@[simp] theorem commitByte_tr (f : Field) (c b : Byte) (s : State) :
    (commitByte f c b s).tr = s.tr.write (committedTo f).index b := rfl
@[simp] theorem commitByte_ctlMode (f : Field) (c b : Byte) (s : State) :
    (commitByte f c b s).ctlMode = s.ctlMode := rfl
@[simp] theorem commitByte_ctlField (f : Field) (c b : Byte) (s : State) :
    (commitByte f c b s).ctlField = s.ctlField := rfl
@[simp] theorem commitByte_ctlView (f : Field) (c b : Byte) (s : State) :
    (commitByte f c b s).ctlView = s.ctlView := rfl
@[simp] theorem commitByte_bc (f : Field) (c b : Byte) (s : State) :
    (commitByte f c b s).bc = s.bc := rfl
@[simp] theorem commitByte_bf (f : Field) (c b : Byte) (s : State) :
    (commitByte f c b s).bf = s.bf := rfl
@[simp] theorem commitByte_rByte (f : Field) (c b : Byte) (s : State) :
    (commitByte f c b s).rByte = .holds b := rfl
@[simp] theorem commitByte_rCnt (f : Field) (c b : Byte) (s : State) :
    (commitByte f c b s).rCnt = .holds c := rfl
@[simp] theorem commitByte_rTens (f : Field) (c b : Byte) (s : State) :
    (commitByte f c b s).rTens = s.rTens := rfl
@[simp] theorem commitByte_rUnits (f : Field) (c b : Byte) (s : State) :
    (commitByte f c b s).rUnits = s.rUnits := rfl
@[simp] theorem commitByte_ind (f : Field) (c b : Byte) (s : State) :
    (commitByte f c b s).ind = s.ind := rfl
@[simp] theorem commitByte_frames (f : Field) (c b : Byte) (s : State) :
    (commitByte f c b s).frames = s.frames := rfl
@[simp] theorem commitByte_fault (f : Field) (c b : Byte) (s : State) :
    (commitByte f c b s).fault = s.fault := rfl
@[simp] theorem commitByte_refused (f : Field) (c b : Byte) (s : State) :
    (commitByte f c b s).refused = s.refused := rfl
@[simp] theorem commitByte_params (f : Field) (c b : Byte) (s : State) :
    (commitByte f c b s).params = s.params := rfl
@[simp] theorem commitByte_pending (f : Field) (c b : Byte) (s : State) :
    (commitByte f c b s).pending = s.pending := rfl

@[simp] theorem setIndicator_tr (v : Bool) (s : State) :
    (setIndicator v s).tr = s.tr := rfl
@[simp] theorem setIndicator_ctlMode (v : Bool) (s : State) :
    (setIndicator v s).ctlMode = s.ctlMode := rfl
@[simp] theorem setIndicator_ctlField (v : Bool) (s : State) :
    (setIndicator v s).ctlField = s.ctlField := rfl
@[simp] theorem setIndicator_ctlView (v : Bool) (s : State) :
    (setIndicator v s).ctlView = s.ctlView := rfl
@[simp] theorem setIndicator_bc (v : Bool) (s : State) :
    (setIndicator v s).bc = s.bc := rfl
@[simp] theorem setIndicator_bf (v : Bool) (s : State) :
    (setIndicator v s).bf = s.bf := rfl
@[simp] theorem setIndicator_rByte (v : Bool) (s : State) :
    (setIndicator v s).rByte = s.rByte := rfl
@[simp] theorem setIndicator_rCnt (v : Bool) (s : State) :
    (setIndicator v s).rCnt = s.rCnt := rfl
@[simp] theorem setIndicator_rTens (v : Bool) (s : State) :
    (setIndicator v s).rTens = s.rTens := rfl
@[simp] theorem setIndicator_rUnits (v : Bool) (s : State) :
    (setIndicator v s).rUnits = s.rUnits := rfl
@[simp] theorem setIndicator_ind (v : Bool) (s : State) :
    (setIndicator v s).ind = .holds v := rfl
@[simp] theorem setIndicator_frames (v : Bool) (s : State) :
    (setIndicator v s).frames = s.frames := rfl
@[simp] theorem setIndicator_fault (v : Bool) (s : State) :
    (setIndicator v s).fault = s.fault := rfl
@[simp] theorem setIndicator_refused (v : Bool) (s : State) :
    (setIndicator v s).refused = s.refused := rfl
@[simp] theorem setIndicator_params (v : Bool) (s : State) :
    (setIndicator v s).params = s.params := rfl
@[simp] theorem setIndicator_pending (v : Bool) (s : State) :
    (setIndicator v s).pending = s.pending := rfl

@[simp] theorem latchControl_tr (f : Field) (view : View) (mode : Mode) (s : State) :
    (latchControl f view mode s).tr = s.tr := rfl
@[simp] theorem latchControl_ctlMode (f : Field) (view : View) (mode : Mode) (s : State) :
    (latchControl f view mode s).ctlMode = mode := rfl
@[simp] theorem latchControl_ctlField (f : Field) (view : View) (mode : Mode) (s : State) :
    (latchControl f view mode s).ctlField = .holds f := rfl
@[simp] theorem latchControl_ctlView (f : Field) (view : View) (mode : Mode) (s : State) :
    (latchControl f view mode s).ctlView = .holds view := rfl
@[simp] theorem latchControl_bc (f : Field) (view : View) (mode : Mode) (s : State) :
    (latchControl f view mode s).bc = s.bc := rfl
@[simp] theorem latchControl_bf (f : Field) (view : View) (mode : Mode) (s : State) :
    (latchControl f view mode s).bf = s.bf := rfl
@[simp] theorem latchControl_rByte (f : Field) (view : View) (mode : Mode) (s : State) :
    (latchControl f view mode s).rByte = s.rByte := rfl
@[simp] theorem latchControl_rCnt (f : Field) (view : View) (mode : Mode) (s : State) :
    (latchControl f view mode s).rCnt = s.rCnt := rfl
@[simp] theorem latchControl_rTens (f : Field) (view : View) (mode : Mode) (s : State) :
    (latchControl f view mode s).rTens = s.rTens := rfl
@[simp] theorem latchControl_rUnits (f : Field) (view : View) (mode : Mode) (s : State) :
    (latchControl f view mode s).rUnits = s.rUnits := rfl
@[simp] theorem latchControl_ind (f : Field) (view : View) (mode : Mode) (s : State) :
    (latchControl f view mode s).ind = s.ind := rfl
@[simp] theorem latchControl_frames (f : Field) (view : View) (mode : Mode) (s : State) :
    (latchControl f view mode s).frames = s.frames := rfl
@[simp] theorem latchControl_fault (f : Field) (view : View) (mode : Mode) (s : State) :
    (latchControl f view mode s).fault = s.fault := rfl
@[simp] theorem latchControl_refused (f : Field) (view : View) (mode : Mode) (s : State) :
    (latchControl f view mode s).refused = s.refused := rfl
@[simp] theorem latchControl_params (f : Field) (view : View) (mode : Mode) (s : State) :
    (latchControl f view mode s).params = s.params := rfl
@[simp] theorem latchControl_pending (f : Field) (view : View) (mode : Mode) (s : State) :
    (latchControl f view mode s).pending = s.pending := rfl

@[simp] theorem presentFirst_tr (w : Word) (s : State) :
    (presentFirst w s).tr = s.tr := rfl
@[simp] theorem presentFirst_ctlMode (w : Word) (s : State) :
    (presentFirst w s).ctlMode = s.ctlMode := rfl
@[simp] theorem presentFirst_ctlField (w : Word) (s : State) :
    (presentFirst w s).ctlField = s.ctlField := rfl
@[simp] theorem presentFirst_ctlView (w : Word) (s : State) :
    (presentFirst w s).ctlView = s.ctlView := rfl
@[simp] theorem presentFirst_bc (w : Word) (s : State) :
    (presentFirst w s).bc = s.bc := rfl
@[simp] theorem presentFirst_bf (w : Word) (s : State) :
    (presentFirst w s).bf = s.bf := rfl
@[simp] theorem presentFirst_rByte (w : Word) (s : State) :
    (presentFirst w s).rByte = s.rByte := rfl
@[simp] theorem presentFirst_rCnt (w : Word) (s : State) :
    (presentFirst w s).rCnt = s.rCnt := rfl
@[simp] theorem presentFirst_rTens (w : Word) (s : State) :
    (presentFirst w s).rTens = s.rTens := rfl
@[simp] theorem presentFirst_rUnits (w : Word) (s : State) :
    (presentFirst w s).rUnits = s.rUnits := rfl
@[simp] theorem presentFirst_ind (w : Word) (s : State) :
    (presentFirst w s).ind = s.ind := rfl
@[simp] theorem presentFirst_frames (w : Word) (s : State) :
    (presentFirst w s).frames = s.frames := rfl
@[simp] theorem presentFirst_fault (w : Word) (s : State) :
    (presentFirst w s).fault = s.fault := rfl
@[simp] theorem presentFirst_refused (w : Word) (s : State) :
    (presentFirst w s).refused = s.refused := rfl
@[simp] theorem presentFirst_params (w : Word) (s : State) :
    (presentFirst w s).params = s.params := rfl
@[simp] theorem presentFirst_pending (w : Word) (s : State) :
    (presentFirst w s).pending = w :: s.pending := rfl

@[simp] theorem tickCounter_tr (s : State) : (tickCounter s).tr = s.tr := by
  unfold tickCounter; split <;> rfl
@[simp] theorem tickCounter_ctlMode (s : State) : (tickCounter s).ctlMode = s.ctlMode := by
  unfold tickCounter; split <;> rfl
@[simp] theorem tickCounter_ctlField (s : State) : (tickCounter s).ctlField = s.ctlField := by
  unfold tickCounter; split <;> rfl
@[simp] theorem tickCounter_ctlView (s : State) : (tickCounter s).ctlView = s.ctlView := by
  unfold tickCounter; split <;> rfl
@[simp] theorem tickCounter_rByte (s : State) : (tickCounter s).rByte = s.rByte := by
  unfold tickCounter; split <;> rfl
@[simp] theorem tickCounter_rCnt (s : State) : (tickCounter s).rCnt = s.rCnt := by
  unfold tickCounter; split <;> rfl
@[simp] theorem tickCounter_rTens (s : State) : (tickCounter s).rTens = s.rTens := by
  unfold tickCounter; split <;> rfl
@[simp] theorem tickCounter_rUnits (s : State) : (tickCounter s).rUnits = s.rUnits := by
  unfold tickCounter; split <;> rfl
@[simp] theorem tickCounter_ind (s : State) : (tickCounter s).ind = s.ind := by
  unfold tickCounter; split <;> rfl
@[simp] theorem tickCounter_frames (s : State) : (tickCounter s).frames = s.frames := by
  unfold tickCounter; split <;> rfl
@[simp] theorem tickCounter_fault (s : State) : (tickCounter s).fault = s.fault := by
  unfold tickCounter; split <;> rfl
@[simp] theorem tickCounter_refused (s : State) : (tickCounter s).refused = s.refused := by
  unfold tickCounter; split <;> rfl
@[simp] theorem tickCounter_params (s : State) : (tickCounter s).params = s.params := by
  unfold tickCounter; split <;> rfl
@[simp] theorem tickCounter_pending (s : State) : (tickCounter s).pending = s.pending := by
  unfold tickCounter; split <;> rfl

/-- Above the threshold a tick restarts the count. -/
theorem tickCounter_over (s : State) (h : s.params.blinkThreshold.toNat < s.bc.toNat + 1) :
    tickCounter s = { s with bc := 0, bf := invertFlag s.bf } := if_pos h

/-- Up to the threshold a tick only counts. -/
theorem tickCounter_under (s : State) (h : s.bc.toNat + 1 ≤ s.params.blinkThreshold.toNat) :
    tickCounter s = { s with bc := BitVec.ofNat 8 (s.bc.toNat + 1) } := if_neg (by omega)

/-- A tick below the threshold does not wrap. -/
theorem tickCounter_count (s : State) (h : s.bc.toNat + 1 ≤ s.params.blinkThreshold.toNat) :
    (tickCounter s).bc.toNat = s.bc.toNat + 1 := by
  have := s.params.blinkThreshold.isLt
  rw [tickCounter_under s h]
  simp only [BitVec.toNat_ofNat]
  omega

/-- A tick leaves the count within the threshold, whatever it was. -/
theorem tickCounter_bounded (s : State) : (tickCounter s).bc.toNat ≤ s.params.blinkThreshold.toNat := by
  by_cases h : s.bc.toNat + 1 ≤ s.params.blinkThreshold.toNat
  · rw [tickCounter_count s h]; exact h
  · rw [tickCounter_over s (by omega)]; exact Nat.zero_le _

/-- Inverting the flag twice gives it back. -/
@[simp] theorem invertFlag_invertFlag (f : Byte) : invertFlag (invertFlag f) = f := by
  simp [invertFlag]

/-- No byte is its own complement. -/
theorem invertFlag_ne (f : Byte) : invertFlag f ≠ f := by
  revert f; decide

/-- Neither the count nor the flag is in the view of 10_state.md R35. -/
@[simp] theorem hostView_of_blink (s : State) (c f : Byte) : ({ s with bc := c, bf := f } : State).hostView = s.hostView := rfl

/-- A tick shows the host nothing. -/
@[simp] theorem tickCounter_hostView (s : State) : (tickCounter s).hostView = s.hostView := by
  unfold tickCounter; split <;> rfl

/-- States that look the same row by row have the same flag. -/
theorem bf_of_rowView {s t : State} (h : s.rowView = t.rowView) : s.bf = t.bf := congrArg Prod.snd h

end Sys2Proof.Machine
end

