-- ==== Sys2Proof/Laws/Memory.lean ====
section
/-!
SUPPORT. The laws of the Time Record space (20_memory.md R50 to R52): what a write does to every read, and that it keeps the
canonical form.
-/

namespace Sys2Proof.Machine

/-- Every read after a write, whatever the memory. -/
theorem Memory.read_write (m : Memory) (a b : Nat) (v : Byte) :
    (m.write a v).read b = if a = b then some v else m.read b := by
  induction m with
  | nil => simp [Memory.write, Memory.read]
  | cons c rest ih =>
    obtain ⟨k, w⟩ := c
    by_cases h1 : a < k
    · simp [Memory.write, Memory.read, h1]
    · by_cases h2 : a = k
      · subst h2
        by_cases h3 : a = b <;> simp [Memory.write, Memory.read, h3]
      · simp only [Memory.write, Memory.read, h1, h2, if_false, ih]
        by_cases h3 : k = b
        · subst h3; simp [h2]
        · simp [h3]

/-- The byte just written is read back. -/
@[simp] theorem Memory.read_write_same (m : Memory) (a : Nat) (v : Byte) : (m.write a v).read a = some v := by
  simp [Memory.read_write]

/-- Every other address reads as before. -/
theorem Memory.read_write_other (m : Memory) {a b : Nat} (v : Byte) (h : a ≠ b) : (m.write a v).read b = m.read b := by
  simp [Memory.read_write, h]

/-- Writing the same byte again changes nothing. -/
theorem Memory.write_write_same (m : Memory) (a : Nat) (v : Byte) : (m.write a v).write a v = m.write a v := by
  induction m with
  | nil => simp [Memory.write]
  | cons c rest ih =>
    obtain ⟨k, w⟩ := c
    by_cases h1 : a < k
    · simp [Memory.write, h1]
    · by_cases h2 : a = k <;> simp [Memory.write, h1, h2, ih]

/-- A write within the space keeps the canonical form above a lower bound. -/
theorem Memory.risingFrom_write (m : Memory) (lo a : Nat) (v : Byte) (hlo : lo ≤ a) (ha : a < 7)
    (h : m.risingFrom lo = true) : (m.write a v).risingFrom lo = true := by
  induction m generalizing lo with
  | nil => simp [Memory.write, Memory.risingFrom, hlo, ha]
  | cons c rest ih =>
    obtain ⟨k, w⟩ := c
    simp only [Memory.risingFrom, Bool.and_eq_true, decide_eq_true_eq] at h
    obtain ⟨⟨hk, hk7⟩, hr⟩ := h
    by_cases h1 : a < k
    · simp only [Memory.write, h1, if_true, Memory.risingFrom, Bool.and_eq_true, decide_eq_true_eq]
      exact ⟨⟨hlo, ha⟩, ⟨⟨by omega, hk7⟩, hr⟩⟩
    · by_cases h2 : a = k
      · subst h2
        simp only [Memory.write, Nat.lt_irrefl, if_false, if_true, Memory.risingFrom, Bool.and_eq_true, decide_eq_true_eq]
        exact ⟨⟨hlo, ha⟩, hr⟩
      · simp only [Memory.write, h1, h2, if_false, Memory.risingFrom, Bool.and_eq_true, decide_eq_true_eq]
        exact ⟨⟨hk, hk7⟩, ih (k + 1) (by omega) hr⟩

/-- Every field has an address of the Time Record space. -/
theorem index_lt (f : TrField) : f.index < 7 := by cases f <;> decide

/-- Two fields never share an address. -/
theorem index_injective {f g : TrField} (h : f.index = g.index) : f = g := by
  revert h; cases f <;> cases g <;> decide

/-- MemWrite keeps the canonical form. -/
theorem memWrite_wf (f : TrField) (v : Byte) (s : State) (h : s.tr.wf = true) : (memWrite f v s).tr.wf = true :=
  Memory.risingFrom_write _ 0 _ v (Nat.zero_le _) (index_lt f) h

/-- In canonical memory nothing stands below the lower bound. -/
theorem Memory.read_below (m : Memory) (lo a : Nat) (ha : a < lo) (h : m.risingFrom lo = true) : m.read a = none := by
  induction m generalizing lo with
  | nil => rfl
  | cons c rest ih =>
    obtain ⟨k, w⟩ := c
    simp only [Memory.risingFrom, Bool.and_eq_true, decide_eq_true_eq] at h
    rw [Memory.read, if_neg (by omega)]
    exact ih (k + 1) (by omega) h.2

/-- In canonical memory nothing stands beyond index 6. -/
theorem Memory.read_beyond (m : Memory) (lo a : Nat) (ha : 7 ≤ a) (h : m.risingFrom lo = true) : m.read a = none := by
  induction m generalizing lo with
  | nil => rfl
  | cons c rest ih =>
    obtain ⟨k, w⟩ := c
    simp only [Memory.risingFrom, Bool.and_eq_true, decide_eq_true_eq] at h
    rw [Memory.read, if_neg (by omega)]
    exact ih (k + 1) h.2

/-- MemRead succeeds exactly on a written byte. -/
theorem memRead_eq_ok {f : TrField} {s : State} {b : Byte} : memRead f s = .ok b ↔ s.tr.read f.index = some b := by
  unfold memRead; split <;> simp_all

/-- MemRead of an unwritten byte faults with the register's name. -/
theorem memRead_unwritten {f : TrField} {s : State} (h : s.tr.read f.index = none) :
    memRead f s = .error (.unwritten (.tr f)) := by
  simp [memRead, h]

/-- A latch that holds a value reads as it. -/
@[simp] theorem readLatch_holds {α : Type} (r : RegName) (v : α) : readLatch r (.holds v) = .ok v := rfl

/-- A latch that holds `⊥` faults with its name. -/
@[simp] theorem readLatch_unwritten {α : Type} (r : RegName) :
    readLatch r (.unwritten : Latch α) = .error (.unwritten r) := rfl

end Sys2Proof.Machine
end

