-- ==== Sys2Proof/Laws/Codec.lean ====
section
/-!
SUPPORT. What the shared functions of the codec answer (40_codec.md R100 to R104) and how an operation settles.
-/

namespace Sys2Proof.Machine

/-- An attempt that succeeds is the next state. -/
@[simp] theorem settle_ok (s t : State) : settle s (.ok t) = .next t := rfl

/-- An attempt that faults leaves only the mark. -/
@[simp] theorem settle_error (s : State) (m : FaultMark) : settle s (.error m) = .next (raiseFault m s) := rfl

/-- Every operation settles in a next state: that of its writes, or the fault's. -/
theorem settle_cases (s : State) (r : Attempt State) :
    (∃ t, r = .ok t ∧ settle s r = .next t) ∨ (∃ m, r = .error m ∧ settle s r = .next (raiseFault m s)) := by
  cases r with
  | ok t => exact .inl ⟨t, rfl, rfl⟩
  | error m => exact .inr ⟨m, rfl, rfl⟩

/-- The subtraction loop divides by 10, given rounds enough (40_codec.md R100). -/
theorem subtractTens_eq (fuel t r : Nat) (h : r ≤ 10 * fuel + 9) : subtractTens fuel t r = (t + r / 10, r % 10) := by
  induction fuel generalizing t r with
  | zero =>
    have h0 : r / 10 = 0 := by omega
    have h1 : r % 10 = r := by omega
    simp [subtractTens, h0, h1]
  | succ fuel ih =>
    by_cases h10 : 10 ≤ r
    · rw [subtractTens, if_pos h10, ih (t + 1) (r - 10) (by omega)]
      have h0 : r / 10 = (r - 10) / 10 + 1 := by omega
      have h1 : r % 10 = (r - 10) % 10 := by omega
      rw [h0, h1]; congr 1; omega
    · have h0 : r / 10 = 0 := by omega
      have h1 : r % 10 = r := by omega
      simp [subtractTens, h10, h0, h1]

/-- Below 100, to_bcd packs quotient and remainder by 10. -/
theorem toBcd_le (n : Byte) (h : n.toNat ≤ 99) :
    toBcd n = .ok (BitVec.ofNat 4 (n.toNat / 10) ++ BitVec.ofNat 4 (n.toNat % 10)) := by
  rw [toBcd, if_neg (by omega), subtractTens_eq _ _ _ (by omega)]
  simp

/-- Above 99, to_bcd faults with the count. -/
theorem toBcd_gt (n : Byte) (h : 99 < n.toNat) : toBcd n = .error (.bcdRange n) := by
  rw [toBcd, if_pos h]

/-- The clamp is the unsigned minimum (40_codec.md R104). -/
theorem clamp_toNat (v max : Byte) : (clamp v max).toNat = min v.toNat max.toNat := by
  unfold clamp
  split
  · rename_i h
    rw [BitVec.lt_def] at h; omega
  · rename_i h
    rw [BitVec.lt_def] at h; omega

/-- A masked commit of a count of at most 99 completes. -/
theorem commitMasked_le (f : Field) (c mask : Byte) (s : State) (h : c.toNat ≤ 99) :
    commitMasked f c mask s =
      .ok (commitByte f c ((BitVec.ofNat 4 (c.toNat / 10) ++ BitVec.ofNat 4 (c.toNat % 10)) &&& mask) s) := by
  rw [commitMasked, toBcd_le c h]; rfl

/-- A masked commit of a count above 99 faults with the count. -/
theorem commitMasked_gt (f : Field) (c mask : Byte) (s : State) (h : 99 < c.toNat) :
    commitMasked f c mask s = .error (.bcdRange c) := by
  rw [commitMasked, toBcd_gt c h]; rfl

/-- The hour passed to to_bcd is at most the clamped count. -/
theorem hourCount_le (sub : Bool) (c : Byte) : (hourCount sub c).toNat ≤ c.toNat := by
  unfold hourCount
  split
  · rename_i h
    simp only [Bool.and_eq_true, decide_eq_true_eq] at h
    have := c.isLt
    rw [BitVec.toNat_sub_of_le (by rw [BitVec.le_def]; exact Nat.le_of_lt h.2)]
    exact Nat.sub_le _ _
  · exact le_rfl

/-- The commit of an hour count of at most 23 completes. -/
theorem commitHour_le (c : Byte) (s : State) (h : c.toNat ≤ 23) :
    commitHour c s = .ok (commitByte .hour c
      ((BitVec.ofNat 4 ((hourCount s.params.hourPmSubtract c).toNat / 10) ++
        BitVec.ofNat 4 ((hourCount s.params.hourPmSubtract c).toNat % 10)) ||| 0x40 ||| pmBit c) s) := by
  have := hourCount_le s.params.hourPmSubtract c
  rw [commitHour, toBcd_le _ (by omega)]; rfl

end Sys2Proof.Machine
end

