-- ==== Sys2Proof/Laws/Display.lean ====
section
/-!
SUPPORT. What a render pass reads and emits (42_display.md R164): its digits, its faults, and the shape of its frames.
-/

namespace Sys2Proof.Machine

/-- A pair shows two digits. -/
@[simp] theorem pairDigits_length (ovl : Option Field) (f : Byte) (p : DigitPair) (b : Byte) :
    (pairDigits ovl f p b).length = 2 := by
  unfold pairDigits
  dsimp only
  split <;> rfl

/-- Reading written bytes gives the digits of the pairs in order. -/
theorem readDigits_cons {ovl : Option Field} {f : Byte} {s : State} {p : DigitPair} {rest : List DigitPair} {b : Byte}
    {ds : List Nibble} (hb : memRead p.field s = .ok b) (hr : readDigits ovl f s rest = .ok ds) :
    readDigits ovl f s (p :: rest) = .ok (pairDigits ovl f p b ++ ds) := by
  simp only [readDigits, hb, hr]; rfl

/-- The first unwritten byte is the one whose fault is reported. -/
theorem readDigits_fault {ovl : Option Field} {f : Byte} {s : State} {p : DigitPair} {rest : List DigitPair}
    {m : FaultMark} (hb : memRead p.field s = .error m) : readDigits ovl f s (p :: rest) = .error m := by
  simp only [readDigits, hb]; rfl

/-- After a written byte the fault is that of the rest. -/
theorem readDigits_fault_later {ovl : Option Field} {f : Byte} {s : State} {p : DigitPair} {rest : List DigitPair}
    {b : Byte} {m : FaultMark} (hb : memRead p.field s = .ok b) (hr : readDigits ovl f s rest = .error m) :
    readDigits ovl f s (p :: rest) = .error m := by
  simp only [readDigits, hb, hr]; rfl

/-- A pass over pairs either shows two digits a pair or faults. -/
theorem readDigits_cases (ovl : Option Field) (f : Byte) (s : State) (ps : List DigitPair) :
    (∃ ds, readDigits ovl f s ps = .ok ds ∧ ds.length = 2 * ps.length) ∨
      (∃ p ∈ ps, s.tr.read p.field.index = none ∧ readDigits ovl f s ps = .error (.unwritten (.tr p.field))) := by
  induction ps with
  | nil => exact .inl ⟨[], rfl, rfl⟩
  | cons p rest ih =>
    cases hb : s.tr.read p.field.index with
    | none => exact .inr ⟨p, List.mem_cons_self, hb, readDigits_fault (memRead_unwritten hb)⟩
    | some b =>
      have hb' := memRead_eq_ok.2 hb
      obtain ⟨ds, hds, hl⟩ | ⟨q, hq, hn, hq'⟩ := ih
      · refine .inl ⟨_, readDigits_cons hb' hds, ?_⟩
        simp [hl]; omega
      · exact .inr ⟨q, List.mem_cons_of_mem _ hq, hn, readDigits_fault_later hb' hq'⟩

/-- Every view has three pairs. -/
@[simp] theorem viewPairs_length (v : View) : (viewPairs v).length = 3 := by cases v <;> rfl

/-- The pairs of a view never show day_of_week. -/
theorem viewPairs_field_ne (v : View) {p : DigitPair} (h : p ∈ viewPairs v) : p.field ≠ .dayOfWeek := by
  cases v <;> simp only [viewPairs, List.mem_cons, List.not_mem_nil, or_false] at h <;>
    obtain rfl | rfl | rfl := h <;> decide

/-- A view pass emits six frames, or faults on one of its bytes. -/
theorem viewFrames_cases (view : View) (ovl : Option Field) (f : Byte) (s : State) :
    (∃ ds, ds.length = 6 ∧ viewFrames view ovl f s = .ok (emitFrames (digitFrames s.params.digitOrder ds) s)) ∨
      (∃ p ∈ viewPairs view, s.tr.read p.field.index = none ∧
        viewFrames view ovl f s = .error (.unwritten (.tr p.field))) := by
  obtain ⟨ds, hds, hl⟩ | ⟨p, hp, hn, hq⟩ := readDigits_cases ovl f s (viewPairs view)
  · refine .inl ⟨ds, by simpa using hl, ?_⟩
    simp only [viewFrames, hds]; rfl
  · refine .inr ⟨p, hp, hn, ?_⟩
    simp only [viewFrames, hq]; rfl

/-- A pass that completes reads only written bytes. -/
theorem viewFrames_of_digits {view : View} {ovl : Option Field} {f : Byte} {s : State} {ds : List Nibble}
    (h : readDigits ovl f s (viewPairs view) = .ok ds) :
    viewFrames view ovl f s = .ok (emitFrames (digitFrames s.params.digitOrder ds) s) := by
  simp only [viewFrames, h]; rfl

/-- RENDER in Run mode. -/
theorem execRender_run {s : State} (hm : s.ctlMode = .run) : execRender s = settle s (renderRun s.bf s) := by
  unfold execRender; rw [hm]

/-- RENDER in Set mode. -/
theorem execRender_set {s : State} (hm : s.ctlMode = .set) : execRender s = settle s (renderSet s.bf s) := by
  unfold execRender; rw [hm]

/-- With `CTL.view` and the hour written, a Run-mode pass is its view's, with the indicator from the hour. -/
theorem renderRun_written {s : State} {view : View} {h f : Byte} (hv : s.ctlView = .holds view)
    (hh : memRead .hour s = .ok h) :
    renderRun f s = (viewFrames view none f s).map (setIndicator (pmInd s.params.pmIndMode h)) := by
  simp only [renderRun, hv, readLatch_holds, hh]; rfl

/-- A Run-mode pass faults first on `CTL.view`. -/
theorem renderRun_view_unwritten {s : State} {f : Byte} (hv : s.ctlView = .unwritten) :
    renderRun f s = .error (.unwritten .ctlView) := by
  simp only [renderRun, hv, readLatch_unwritten]; rfl

/-- A Run-mode pass faults second on the hour byte. -/
theorem renderRun_hour_unwritten {s : State} {view : View} {f : Byte} (hv : s.ctlView = .holds view)
    (hh : s.tr.read 2 = none) : renderRun f s = .error (.unwritten (.tr .hour)) := by
  simp only [renderRun, hv, readLatch_holds, memRead_unwritten (f := .hour) hh]; rfl

/-- With `CTL.field` written, a Set-mode pass is its field's view with that field overlaid. -/
theorem renderSet_written {s : State} {fl : Field} {f : Byte} (hf : s.ctlField = .holds fl) :
    renderSet f s = (viewFrames (shownBy fl) (some fl) f s).map (setIndicator (setInd (shownBy fl))) := by
  simp only [renderSet, hf, readLatch_holds]; rfl

/-- A Set-mode pass faults first on `CTL.field`. -/
theorem renderSet_field_unwritten {s : State} {f : Byte} (hf : s.ctlField = .unwritten) :
    renderSet f s = .error (.unwritten .ctlField) := by
  simp only [renderSet, hf, readLatch_unwritten]; rfl

/-- A pass has six frames. -/
@[simp] theorem digitFrames_length (order : DigitOrder) (ds : List Nibble) : (digitFrames order ds).length = 6 := rfl

/-- Their addresses are 1 to 6 in ascending order. -/
theorem digitFrames_addr (order : DigitOrder) (ds : List Nibble) :
    (digitFrames order ds).map Frame.addr = [1, 2, 3, 4, 5, 6] := rfl

/-- Their data bytes are nibbles. -/
theorem digitFrames_data (order : DigitOrder) (ds : List Nibble) :
    ∀ f ∈ digitFrames order ds, f.data.toNat < 16 := by
  intro f hf
  obtain ⟨a, -, rfl⟩ := List.mem_map.1 hf
  simp only [digitFrame, BitVec.toNat_setWidth]
  exact lt_of_le_of_lt (Nat.mod_le _ _) (BitVec.isLt _)

/-- Six digits most significant first, at their own positions. -/
theorem digitFrames_msd (t₁ u₁ t₂ u₂ t₃ u₃ : Nibble) :
    digitFrames .msdFirst [t₁, u₁, t₂, u₂, t₃, u₃] =
      [⟨1, t₁.setWidth 8⟩, ⟨2, u₁.setWidth 8⟩, ⟨3, t₂.setWidth 8⟩, ⟨4, u₂.setWidth 8⟩, ⟨5, t₃.setWidth 8⟩,
        ⟨6, u₃.setWidth 8⟩] := rfl

/-- Six digits least significant first, in reverse. -/
theorem digitFrames_lsd (t₁ u₁ t₂ u₂ t₃ u₃ : Nibble) :
    digitFrames .lsdFirst [t₁, u₁, t₂, u₂, t₃, u₃] =
      [⟨1, u₃.setWidth 8⟩, ⟨2, t₃.setWidth 8⟩, ⟨3, u₂.setWidth 8⟩, ⟨4, t₂.setWidth 8⟩, ⟨5, u₁.setWidth 8⟩,
        ⟨6, t₁.setWidth 8⟩] := rfl

end Sys2Proof.Machine
end

