-- ==== Sys2Proof/Laws/Exec.lean ====
section
/-!
SUPPORT. What one operation can do, said once: the next state of every operation is one of a few updates of the state. An
invariant of the machine is proved over these cases, not over the operations.
-/

namespace Sys2Proof.Machine

/-- The updates a host operation can end in. -/
inductive HostEffect (s : State) : State → Prop where
  | faulted (m : FaultMark) : HostEffect s (raiseFault m s)
  | latchedByte (b : Byte) : HostEffect s { s with rByte := .holds b }
  | latchedDigits (d : Nibble × Nibble) : HostEffect s (latchDigits d s)
  | committed (f : Field) (c b : Byte) : HostEffect s (commitByte f c b s)
  | stored (f : TrField) (v : Byte) : HostEffect s (memWrite f v s)
  | latchedControl (f : Field) (view : View) (mode : Mode) : HostEffect s (latchControl f view mode s)
  | emitted (ds : List Nibble) (h : ds.length = 6) :
      HostEffect s (emitFrames (digitFrames s.params.digitOrder ds) s)
  | rendered (ds : List Nibble) (h : ds.length = 6) (v : Bool) :
      HostEffect s (setIndicator v (emitFrames (digitFrames s.params.digitOrder ds) s))

/-- A settled attempt has an effect if its success has one. -/
theorem settle_effect {s : State} {r : Attempt State} (h : ∀ t, r = .ok t → HostEffect s t) :
    ∃ t, settle s r = .next t ∧ HostEffect s t := by
  obtain ⟨t, hr, hs⟩ | ⟨m, -, hs⟩ := settle_cases s r
  · exact ⟨t, hs, h t hr⟩
  · exact ⟨_, hs, .faulted m⟩

theorem decodeTo_effect (f : TrField) (b : Byte) (s : State) :
    ∃ t, settle s (decodeTo f b s) = .next t ∧ HostEffect s t := ⟨_, rfl, .latchedDigits _⟩

theorem commitMasked_effect (f : Field) (c mask : Byte) (s : State) :
    ∃ t, settle s (commitMasked f c mask s) = .next t ∧ HostEffect s t := by
  refine settle_effect fun t ht => ?_
  by_cases h : c.toNat ≤ 99
  · rw [commitMasked_le f c mask s h] at ht
    cases ht; exact .committed _ _ _
  · rw [commitMasked_gt f c mask s (by omega)] at ht
    cases ht

theorem viewFrames_effect (view : View) (ovl : Option Field) (f : Byte) (s : State) :
    ∃ t, settle s (viewFrames view ovl f s) = .next t ∧ HostEffect s t := by
  refine settle_effect fun t ht => ?_
  obtain ⟨ds, hl, hd⟩ | ⟨p, -, -, hp⟩ := viewFrames_cases view ovl f s
  · rw [hd] at ht; cases ht; exact .emitted ds hl
  · rw [hp] at ht; cases ht

theorem toBcd_effect (n : Byte) (s : State) : ∃ t, execToBcd n s = .next t ∧ HostEffect s t := by
  refine settle_effect fun t ht => ?_
  by_cases h : n.toNat ≤ 99
  · rw [toBcd_le n h] at ht; cases ht; exact .latchedByte _
  · rw [toBcd_gt n (by omega)] at ht; cases ht

theorem encHour_effect (v : Byte) (s : State) : ∃ t, execEncHour v s = .next t ∧ HostEffect s t := by
  refine settle_effect fun t ht => ?_
  have h : (clamp v 23).toNat ≤ 23 := by rw [clamp_toNat]; exact Nat.min_le_right _ _
  rw [commitHour_le _ s h] at ht
  cases ht; exact .committed _ _ _

/-- What a pass with an indicator ends in. -/
theorem indicated_effect {s t : State} {view : View} {ovl : Option Field} {f : Byte} {v : Bool}
    (h : (viewFrames view ovl f s).map (setIndicator v) = .ok t) : HostEffect s t := by
  obtain ⟨ds, hl, hd⟩ | ⟨p, -, -, hp⟩ := viewFrames_cases view ovl f s
  · rw [hd] at h; cases h; exact .rendered ds hl v
  · rw [hp] at h; cases h

theorem render_effect (s : State) : ∃ t, execRender s = .next t ∧ HostEffect s t := by
  cases hm : s.ctlMode with
  | run =>
    rw [execRender_run hm]
    refine settle_effect fun t ht => ?_
    cases hv : s.ctlView with
    | unwritten => rw [renderRun_view_unwritten hv] at ht; cases ht
    | holds view =>
      cases hh : s.tr.read 2 with
      | none => rw [renderRun_hour_unwritten hv hh] at ht; cases ht
      | some h =>
        rw [renderRun_written hv (memRead_eq_ok.2 hh)] at ht
        exact indicated_effect ht
  | set =>
    rw [execRender_set hm]
    refine settle_effect fun t ht => ?_
    cases hf : s.ctlField with
    | unwritten => rw [renderSet_field_unwritten hf] at ht; cases ht
    | holds fl => rw [renderSet_written hf] at ht; exact indicated_effect ht

/-- Every host operation answers a next state, which is one of the updates of `HostEffect`. -/
theorem exec_host_effect (i : Instr) (hi : i ≠ .tick) (s : State) : ∃ t, exec i s = .next t ∧ HostEffect s t := by
  cases i with
  | toBcd n => exact toBcd_effect n s
  | decSec b => exact decodeTo_effect .second b s
  | decMin b => exact decodeTo_effect .minute b s
  | decHour b => exact decodeTo_effect .hour b s
  | decDow b => exact decodeTo_effect .dayOfWeek b s
  | decDate b => exact decodeTo_effect .date b s
  | decMonth b => exact decodeTo_effect .month b s
  | decYear b => exact decodeTo_effect .year b s
  | encMonth v => exact commitMasked_effect .month _ _ s
  | encDay v => exact commitMasked_effect .day _ _ s
  | encYear v => exact commitMasked_effect .year _ _ s
  | encHour v => exact encHour_effect v s
  | encMinute v => exact commitMasked_effect .minute _ _ s
  | tick => exact absurd rfl hi
  | render => exact render_effect s
  | renderDate => exact viewFrames_effect _ _ _ s
  | renderDateOvlMonth => exact viewFrames_effect _ _ _ s
  | renderDateOvlDay => exact viewFrames_effect _ _ _ s
  | renderDateOvlYear => exact viewFrames_effect _ _ _ s
  | renderDateOvlHour => exact viewFrames_effect _ _ _ s
  | renderDateOvlMinute => exact viewFrames_effect _ _ _ s
  | renderTime => exact viewFrames_effect _ _ _ s
  | renderTimeOvlMonth => exact viewFrames_effect _ _ _ s
  | renderTimeOvlDay => exact viewFrames_effect _ _ _ s
  | renderTimeOvlYear => exact viewFrames_effect _ _ _ s
  | renderTimeOvlHour => exact viewFrames_effect _ _ _ s
  | renderTimeOvlMinute => exact viewFrames_effect _ _ _ s
  | setTrSec b => exact ⟨_, rfl, .stored .second b⟩
  | setTrMin b => exact ⟨_, rfl, .stored .minute b⟩
  | setTrHour b => exact ⟨_, rfl, .stored .hour b⟩
  | setTrDow b => exact ⟨_, rfl, .stored .dayOfWeek b⟩
  | setTrDate b => exact ⟨_, rfl, .stored .date b⟩
  | setTrMonth b => exact ⟨_, rfl, .stored .month b⟩
  | setTrYear b => exact ⟨_, rfl, .stored .year b⟩
  | setCtlMonth view mode => exact ⟨_, rfl, .latchedControl .month view mode⟩
  | setCtlDay view mode => exact ⟨_, rfl, .latchedControl .day view mode⟩
  | setCtlYear view mode => exact ⟨_, rfl, .latchedControl .year view mode⟩
  | setCtlHour view mode => exact ⟨_, rfl, .latchedControl .hour view mode⟩
  | setCtlMinute view mode => exact ⟨_, rfl, .latchedControl .minute view mode⟩

/-- TICK answers the counter's next state. -/
@[simp] theorem exec_tick (s : State) : exec .tick s = .next (tickCounter s) := rfl

end Sys2Proof.Machine
end

