-- ==== Sys2Proof/Laws/PerInstr.lean ====
section
/-!
SUPPORT. Statements about every instruction as syntax, one lemma per constructor. Family `TableRow`: the word of an instruction
meets the match and mask of its row of spec/opcode_table.json (30_encoding.md R74).
-/

namespace Sys2Proof.Laws.TableRow

/-- The match and the mask of the instruction's row in spec/opcode_table.json. -/
def matchMask : Instr → Word × Word
  | .toBcd _ => (0x1000, 0xFF00)
  | .decSec _ => (0x2000, 0xFF00)
  | .decMin _ => (0x2100, 0xFF00)
  | .decHour _ => (0x2200, 0xFF00)
  | .decDow _ => (0x2300, 0xFF00)
  | .decDate _ => (0x2400, 0xFF00)
  | .decMonth _ => (0x2500, 0xFF00)
  | .decYear _ => (0x2600, 0xFF00)
  | .encMonth _ => (0x3000, 0xFF00)
  | .encDay _ => (0x3100, 0xFF00)
  | .encYear _ => (0x3200, 0xFF00)
  | .encHour _ => (0x3300, 0xFF00)
  | .encMinute _ => (0x3400, 0xFF00)
  | .tick => (0x4000, 0xFFFF)
  | .render => (0x5000, 0xFFFF)
  | .renderDate => (0x6000, 0xFFFF)
  | .renderDateOvlMonth => (0x6008, 0xFFFF)
  | .renderDateOvlDay => (0x6009, 0xFFFF)
  | .renderDateOvlYear => (0x600A, 0xFFFF)
  | .renderDateOvlHour => (0x600B, 0xFFFF)
  | .renderDateOvlMinute => (0x600C, 0xFFFF)
  | .renderTime => (0x7000, 0xFFFF)
  | .renderTimeOvlMonth => (0x7008, 0xFFFF)
  | .renderTimeOvlDay => (0x7009, 0xFFFF)
  | .renderTimeOvlYear => (0x700A, 0xFFFF)
  | .renderTimeOvlHour => (0x700B, 0xFFFF)
  | .renderTimeOvlMinute => (0x700C, 0xFFFF)
  | .setTrSec _ => (0x8000, 0xFF00)
  | .setTrMin _ => (0x8100, 0xFF00)
  | .setTrHour _ => (0x8200, 0xFF00)
  | .setTrDow _ => (0x8300, 0xFF00)
  | .setTrDate _ => (0x8400, 0xFF00)
  | .setTrMonth _ => (0x8500, 0xFF00)
  | .setTrYear _ => (0x8600, 0xFF00)
  | .setCtlMonth _ _ => (0x9000, 0xFFEE)
  | .setCtlDay _ _ => (0x9002, 0xFFEE)
  | .setCtlYear _ _ => (0x9004, 0xFFEE)
  | .setCtlHour _ _ => (0x9006, 0xFFEE)
  | .setCtlMinute _ _ => (0x9008, 0xFFEE)

/-- The encoded word agrees with its row's match under its row's mask. -/
def Statement (i : Instr) : Prop := encode i &&& (matchMask i).2 = (matchMask i).1

theorem toBcd (n : Byte) : Statement (.toBcd n) := by
  unfold Statement matchMask; revert n; decide

theorem decSec (b : Byte) : Statement (.decSec b) := by
  unfold Statement matchMask; revert b; decide

theorem decMin (b : Byte) : Statement (.decMin b) := by
  unfold Statement matchMask; revert b; decide

theorem decHour (b : Byte) : Statement (.decHour b) := by
  unfold Statement matchMask; revert b; decide

theorem decDow (b : Byte) : Statement (.decDow b) := by
  unfold Statement matchMask; revert b; decide

theorem decDate (b : Byte) : Statement (.decDate b) := by
  unfold Statement matchMask; revert b; decide

theorem decMonth (b : Byte) : Statement (.decMonth b) := by
  unfold Statement matchMask; revert b; decide

theorem decYear (b : Byte) : Statement (.decYear b) := by
  unfold Statement matchMask; revert b; decide

theorem encMonth (v : Byte) : Statement (.encMonth v) := by
  unfold Statement matchMask; revert v; decide

theorem encDay (v : Byte) : Statement (.encDay v) := by
  unfold Statement matchMask; revert v; decide

theorem encYear (v : Byte) : Statement (.encYear v) := by
  unfold Statement matchMask; revert v; decide

theorem encHour (v : Byte) : Statement (.encHour v) := by
  unfold Statement matchMask; revert v; decide

theorem encMinute (v : Byte) : Statement (.encMinute v) := by
  unfold Statement matchMask; revert v; decide

theorem tick : Statement .tick := rfl

theorem render : Statement .render := rfl

theorem renderDate : Statement .renderDate := rfl

theorem renderDateOvlMonth : Statement .renderDateOvlMonth := rfl

theorem renderDateOvlDay : Statement .renderDateOvlDay := rfl

theorem renderDateOvlYear : Statement .renderDateOvlYear := rfl

theorem renderDateOvlHour : Statement .renderDateOvlHour := rfl

theorem renderDateOvlMinute : Statement .renderDateOvlMinute := rfl

theorem renderTime : Statement .renderTime := rfl

theorem renderTimeOvlMonth : Statement .renderTimeOvlMonth := rfl

theorem renderTimeOvlDay : Statement .renderTimeOvlDay := rfl

theorem renderTimeOvlYear : Statement .renderTimeOvlYear := rfl

theorem renderTimeOvlHour : Statement .renderTimeOvlHour := rfl

theorem renderTimeOvlMinute : Statement .renderTimeOvlMinute := rfl

theorem setTrSec (b : Byte) : Statement (.setTrSec b) := by
  unfold Statement matchMask; revert b; decide

theorem setTrMin (b : Byte) : Statement (.setTrMin b) := by
  unfold Statement matchMask; revert b; decide

theorem setTrHour (b : Byte) : Statement (.setTrHour b) := by
  unfold Statement matchMask; revert b; decide

theorem setTrDow (b : Byte) : Statement (.setTrDow b) := by
  unfold Statement matchMask; revert b; decide

theorem setTrDate (b : Byte) : Statement (.setTrDate b) := by
  unfold Statement matchMask; revert b; decide

theorem setTrMonth (b : Byte) : Statement (.setTrMonth b) := by
  unfold Statement matchMask; revert b; decide

theorem setTrYear (b : Byte) : Statement (.setTrYear b) := by
  unfold Statement matchMask; revert b; decide

theorem setCtlMonth (view : View) (mode : Mode) : Statement (.setCtlMonth view mode) := by
  cases view <;> cases mode <;> rfl

theorem setCtlDay (view : View) (mode : Mode) : Statement (.setCtlDay view mode) := by
  cases view <;> cases mode <;> rfl

theorem setCtlYear (view : View) (mode : Mode) : Statement (.setCtlYear view mode) := by
  cases view <;> cases mode <;> rfl

theorem setCtlHour (view : View) (mode : Mode) : Statement (.setCtlHour view mode) := by
  cases view <;> cases mode <;> rfl

theorem setCtlMinute (view : View) (mode : Mode) : Statement (.setCtlMinute view mode) := by
  cases view <;> cases mode <;> rfl

end Sys2Proof.Laws.TableRow
end

