-- ==== Sys2Proof/Laws/Step.lean ====
section
/-!
SUPPORT. What one step looks at: the marks, then the next word.
-/

namespace Sys2Proof.Machine

/-- A state has a next step exactly when no mark is set. -/
theorem stopReason_eq_none {s : State} : stopReason s = none ↔ s.Running := by
  unfold stopReason State.Running
  cases s.fault <;> cases s.refused <;> simp

/-- A running state with no word presented waits. -/
theorem nextWord_nil {s : State} (h : s.pending = []) : nextWord s = none := by
  simp [nextWord, h]

/-- The head of the pending words is the one presented. -/
theorem nextWord_cons {s : State} {w : Word} {rest : List Word} (h : s.pending = w :: rest) :
    nextWord s = some (w, { s with pending := rest }) := by
  simp [nextWord, h]

/-- A presented word either runs the operation it spells or is refused; either way there is a next state. -/
theorem stepWord_cases (w : Word) (s : State) :
    (∃ i, decode w = .ok i ∧ stepWord w s = exec i s) ∨
      (∃ r, decode w = .error r ∧ stepWord w s = .next (refuse r w s)) := by
  unfold stepWord
  cases h : decode w with
  | ok i => exact .inl ⟨i, rfl, rfl⟩
  | error r => exact .inr ⟨r, rfl, rfl⟩

/-- The marks are clear wherever a step answers a next state. -/
theorem running_of_step {s t : State} (h : step s = .next t) : s.Running := by
  rw [← stopReason_eq_none]
  unfold step at h
  split at h
  · cases h
  · assumption

/-- A normal end of the model is one of 43_host.md R205. -/
theorem hostEnd_of_normalEnd {s : State} (h : s.NormalEnd) : s.HostEnd := ⟨by simp [h.1], h.2⟩

/-- Where R205 ends a run, the list without the ticks after its last host word ends it in the same rows (log entry 22). -/
theorem normalEnd_without_ticks {s : State} (h : s.HostEnd) : ({ s with pending := [] } : State).NormalEnd :=
  ⟨rfl, h.2⟩

/-- A run of no steps. -/
@[simp] theorem core_run_zero (s : State) : core.run 0 s = .next s := rfl

/-- A run goes on from the next state of its first step. -/
theorem core_run_succ (k : Nat) {s t : State} (h : step s = .next t) : core.run (k + 1) s = core.run k t := by
  have h' : core.step s = .next t := h
  simp only [Host.Core.run, h']

end Sys2Proof.Machine
end

