-- ==== Sys2Proof/Tests/Slice0.lean ====
section
/-!
SUPPORT. The model's own tests: words written out from 30_encoding.md R74, ill-formed lines, single operations with the
results of 95_test_vectors.md, and for every statement with hypotheses a witness that meets them.
-/

namespace Sys2Proof.Tests

open Sys2Proof.Machine Sys2Proof.Spec

/-- The next state of an outcome. -/
def after : Next → Option State
  | .next s => some s
  | .fault _ => none
  | .refused _ => none

/-- The frames of an outcome as pairs of numbers. -/
def framesOf (o : Next) : Option (List (Nat × Nat)) :=
  (after o).map fun s => s.frames.map fun f => (f.addr.toNat, f.data.toNat)

/-- The Time Record of the raw-view vectors of L2.6: 0x00, 0x07, 0x61, 0x01, 0x03, 0x11, 0x26. -/
def record : Memory := [(0, 0x00), (1, 0x07), (2, 0x61), (3, 0x01), (4, 0x03), (5, 0x11), (6, 0x26)]

/-- A booted block with that record, in Set mode on a field, with a flag. -/
def editing (f : Field) (bf : Byte) : State :=
  { State.reset with tr := record, ctlMode := .set, ctlField := .holds f, ctlView := .holds .time, bf := bf }

/-- A booted block in Run mode with a view, an hour byte and parameters. -/
def running (view : View) (h : Byte) (p : Params) : State :=
  { State.resetWith p with tr := record.write 2 h, ctlField := .holds .month, ctlView := .holds view }

/-! ### Well-formedness: an ill-formed line for each check of R77 and R78 -/

theorem test_illformed_toBcd : (Line.toBcd 256).wellFormed = false := by decide
theorem test_illformed_dec : (Line.dec .second 256).wellFormed = false := by decide
theorem test_illformed_enc : (Line.enc .hour 300).wellFormed = false := by decide
theorem test_illformed_setTr_index : (Line.setTr 7 0).wellFormed = false := by decide
theorem test_illformed_setTr_byte : (Line.setTr 6 256).wellFormed = false := by decide
theorem test_illformed_ticks : (Line.ticks 0).wellFormed = false := by decide
theorem test_illformed_loadTr :
    (Line.loadTr 256 0 0 0 0 0 0).wellFormed = false ∧ (Line.loadTr 0 256 0 0 0 0 0).wellFormed = false ∧
    (Line.loadTr 0 0 256 0 0 0 0).wellFormed = false ∧ (Line.loadTr 0 0 0 256 0 0 0).wellFormed = false ∧
    (Line.loadTr 0 0 0 0 256 0 0).wellFormed = false ∧ (Line.loadTr 0 0 0 0 0 256 0).wellFormed = false ∧
    (Line.loadTr 0 0 0 0 0 0 256).wellFormed = false := by decide

/-! ### Decoding: every operation's word, from the patterns of R74 -/

theorem test_decode_toBcd : decode 0b0001_0000_0001_0111 = .ok (.toBcd 23) := by decide
theorem test_decode_dec :
    decode 0b0010_0000_0101_1001 = .ok (.decSec 0x59) ∧ decode 0b0010_0001_0011_0000 = .ok (.decMin 0x30) ∧
    decode 0b0010_0010_0110_0001 = .ok (.decHour 0x61) ∧ decode 0b0010_0011_0000_0001 = .ok (.decDow 0x01) ∧
    decode 0b0010_0100_0011_0001 = .ok (.decDate 0x31) ∧ decode 0b0010_0101_0001_0010 = .ok (.decMonth 0x12) ∧
    decode 0b0010_0110_0010_0110 = .ok (.decYear 0x26) := by decide
theorem test_decode_enc :
    decode 0b0011_0000_0000_1011 = .ok (.encMonth 11) ∧ decode 0b0011_0001_0000_0011 = .ok (.encDay 3) ∧
    decode 0b0011_0010_0001_1010 = .ok (.encYear 26) ∧ decode 0b0011_0011_0000_1101 = .ok (.encHour 13) ∧
    decode 0b0011_0100_0000_0111 = .ok (.encMinute 7) := by decide
theorem test_decode_tick_render :
    decode 0b0100_0000_0000_0000 = .ok .tick ∧ decode 0b0101_0000_0000_0000 = .ok .render := by decide
theorem test_decode_renderDate :
    decode 0b0110_0000_0000_0000 = .ok .renderDate ∧ decode 0b0110_0000_0000_1000 = .ok .renderDateOvlMonth ∧
    decode 0b0110_0000_0000_1001 = .ok .renderDateOvlDay ∧ decode 0b0110_0000_0000_1010 = .ok .renderDateOvlYear ∧
    decode 0b0110_0000_0000_1011 = .ok .renderDateOvlHour ∧
    decode 0b0110_0000_0000_1100 = .ok .renderDateOvlMinute := by decide
theorem test_decode_renderTime :
    decode 0b0111_0000_0000_0000 = .ok .renderTime ∧ decode 0b0111_0000_0000_1000 = .ok .renderTimeOvlMonth ∧
    decode 0b0111_0000_0000_1001 = .ok .renderTimeOvlDay ∧ decode 0b0111_0000_0000_1010 = .ok .renderTimeOvlYear ∧
    decode 0b0111_0000_0000_1011 = .ok .renderTimeOvlHour ∧
    decode 0b0111_0000_0000_1100 = .ok .renderTimeOvlMinute := by decide
theorem test_decode_setTr :
    decode 0b1000_0000_1000_0000 = .ok (.setTrSec 0x80) ∧ decode 0b1000_0001_0000_0111 = .ok (.setTrMin 0x07) ∧
    decode 0b1000_0010_0110_0001 = .ok (.setTrHour 0x61) ∧ decode 0b1000_0011_0000_0001 = .ok (.setTrDow 0x01) ∧
    decode 0b1000_0100_0000_0011 = .ok (.setTrDate 0x03) ∧ decode 0b1000_0101_0001_0001 = .ok (.setTrMonth 0x11) ∧
    decode 0b1000_0110_0010_0110 = .ok (.setTrYear 0x26) := by decide
theorem test_decode_setCtl :
    decode 0b1001_0000_0001_0000 = .ok (.setCtlMonth .date .run) ∧
    decode 0b1001_0000_0000_0011 = .ok (.setCtlDay .time .set) ∧
    decode 0b1001_0000_0000_0101 = .ok (.setCtlYear .time .set) ∧
    decode 0b1001_0000_0000_0111 = .ok (.setCtlHour .time .set) ∧
    decode 0b1001_0000_0001_1001 = .ok (.setCtlMinute .date .set) := by decide

/-- The refusals of L2.9. -/
theorem test_decode_refusals :
    decode 0x0000 = .error .rsvOpcode ∧ decode 0xA000 = .error .rsvOpcode ∧ decode 0xF123 = .error .rsvOpcode ∧
    decode 0x1100 = .error .rsvBits ∧ decode 0x2800 = .error .rsvBits ∧ decode 0x8800 = .error .rsvBits ∧
    decode 0x4001 = .error .rsvBits ∧ decode 0x5800 = .error .rsvBits ∧ decode 0x6010 = .error .rsvBits ∧
    decode 0x6001 = .error .rsvBits ∧ decode 0x9020 = .error .rsvBits ∧ decode 0x2700 = .error .rsvSel ∧
    decode 0x8700 = .error .rsvSel ∧ decode 0x3500 = .error .rsvSel ∧ decode 0x3700 = .error .rsvSel ∧
    decode 0x600D = .error .rsvField ∧ decode 0x700F = .error .rsvField ∧ decode 0x900A = .error .rsvField ∧
    decode 0x900B = .error .rsvField ∧ decode 0x900E = .error .rsvField ∧ decode 0x2F00 = .error .rsvBits := by decide

/-- The host's two entry points, on the word of ENC.HOUR 13. -/
theorem test_table_word : decodeTableWord 16 0x330D = some (.encHour 13) ∧ decodeTableWord 16 0 = none := by decide
theorem test_fetch_word :
    (after (step (State.reset.withFetchWord 16 0x330D))).map (·.rByte) = some (.holds 0x61) := by decide

/-! ### The assembler (R77, R78) -/

theorem test_parse_lines :
    Asm.parseLine "TO_BCD 23" = some (.toBcd 23) ∧ Asm.parseLine "DEC.HOUR 0x61 ; 1 PM" = some (.dec .hour 0x61) ∧
    Asm.parseLine "RENDER_DATE ovl=DAY" = some (.renderDate (some .day)) ∧
    Asm.parseLine "SET_TR MIN, 0x07" = some (.setTr 1 7) ∧
    Asm.parseLine "SET_CTL SET, DAY, TIME" = some (.setCtl .set .day .time) ∧
    Asm.parseLine "LOAD_TR 0x45, 0x30, 0x71, 0x03, 0x11, 0x11, 0x26" =
      some (.loadTr 0x45 0x30 0x71 0x03 0x11 0x11 0x26) := by decide
theorem test_parse_refuses :
    Asm.parseLine "TO_BCD" = none ∧ Asm.parseLine "tick" = none ∧ Asm.parseLine "SET_TR 6 0x26" = none := by decide
theorem test_assemble_forms :
    Asm.assemble [.setTr 6 0x26, .enc .day 3, .renderTime (some .hour), .setCtl .set .minute .date] =
      some [0x8626, 0x3103, 0x700B, 0x9019] := by decide

/-! ### Operations, with the vectors of 95_test_vectors.md -/

theorem test_toBcd :
    (after (exec (.toBcd 10) .reset)).map (·.rByte) = some (.holds 0x10) ∧
    (after (exec (.toBcd 99) .reset)).map (·.rByte) = some (.holds 0x99) := by decide
theorem test_toBcd_fault :
    (after (exec (.toBcd 100) .reset)).map (fun s => (s.fault, s.rByte)) = some (some (.bcdRange 100), .unwritten) := by
  decide
theorem test_dec :
    (after (exec (.decSec 0xD9) .reset)).map (fun s => (s.rTens, s.rUnits)) = some (.holds 5, .holds 9) ∧
    (after (exec (.decMin 0xFF) .reset)).map (fun s => (s.rTens, s.rUnits)) = some (.holds 7, .holds 0xF) ∧
    (after (exec (.decDow 0x0F) .reset)).map (fun s => (s.rTens, s.rUnits)) = some (.holds 0, .holds 7) ∧
    (after (exec (.decDate 0xC5) .reset)).map (fun s => (s.rTens, s.rUnits)) = some (.holds 0, .holds 5) ∧
    (after (exec (.decMonth 0xFF) .reset)).map (fun s => (s.rTens, s.rUnits)) = some (.holds 1, .holds 0xF) ∧
    (after (exec (.decYear 0xA5) .reset)).map (fun s => (s.rTens, s.rUnits)) = some (.holds 0xA, .holds 5) := by decide
theorem test_decHour :
    (after (exec (.decHour 0x71) .reset)).map (fun s => (s.rTens, s.rUnits)) = some (.holds 1, .holds 1) ∧
    (after (exec (.decHour 0x23) .reset)).map (fun s => (s.rTens, s.rUnits)) = some (.holds 2, .holds 3) := by decide
theorem test_encMonth :
    (after (exec (.encMonth 255) .reset)).map (fun s => (s.rByte, s.rCnt, s.tr)) =
      some (.holds 0x12, .holds 12, [(5, 0x12)]) := by decide
theorem test_encDay :
    (after (exec (.encDay 32) .reset)).map (fun s => (s.rByte, s.rCnt, s.tr)) =
      some (.holds 0x31, .holds 31, [(4, 0x31)]) := by decide
theorem test_encYear :
    (after (exec (.encYear 26) .reset)).map (fun s => (s.rByte, s.rCnt, s.tr)) =
      some (.holds 0x26, .holds 26, [(6, 0x26)]) := by decide
theorem test_encYear_fault :
    (after (exec (.encYear 100) .reset)).map (fun s => (s.fault, s.rCnt, s.tr)) =
      some (some (.bcdRange 100), .unwritten, []) := by decide
theorem test_encHour_subtract :
    (after (exec (.encHour 12) .reset)).map (·.rByte) = some (.holds 0x52) ∧
    (after (exec (.encHour 20) .reset)).map (·.rByte) = some (.holds 0x68) ∧
    (after (exec (.encHour 99) .reset)).map (fun s => (s.rByte, s.rCnt)) = some (.holds 0x71, .holds 23) := by decide
theorem test_encHour_as_written :
    (after (exec (.encHour 13) (.resetWith { Params.default with hourPmSubtract := false }))).map (·.rByte) =
      some (.holds 0x73) ∧
    (after (exec (.encHour 20) (.resetWith { Params.default with hourPmSubtract := false }))).map (·.rByte) =
      some (.holds 0x60) := by decide
theorem test_encMinute :
    (after (exec (.encMinute 60) .reset)).map (fun s => (s.rByte, s.rCnt, s.tr)) =
      some (.holds 0x59, .holds 59, [(1, 0x59)]) := by decide
theorem test_tick_counts :
    (after (exec .tick { State.reset with bc := 99 })).map (fun s => (s.bc, s.bf)) = some (100, 0x00) := by decide
theorem test_tick_inverts :
    (after (exec .tick { State.reset with bc := 100, bf := 0xFF })).map (fun s => (s.bc, s.bf)) = some (0, 0x00) ∧
    (after (exec .tick { State.resetWith { Params.default with blinkThreshold := 99 } with bc := 99 })).map
      (fun s => (s.bc, s.bf)) = some (0, 0xFF) := by decide
theorem test_render_set_day :
    framesOf (exec .render (editing .day 0xFF)) =
      some [(1, 0x01), (2, 0x01), (3, 0x0F), (4, 0x0F), (5, 0x02), (6, 0x06)] ∧
    (after (exec .render (editing .day 0xFF))).map (·.ind) = some (.holds false) := by decide
theorem test_render_run :
    framesOf (exec .render (running .time 0x23 .default)) =
      some [(1, 0x02), (2, 0x03), (3, 0x00), (4, 0x07), (5, 0x00), (6, 0x00)] ∧
    (after (exec .render (running .time 0x23 .default))).map (·.ind) = some (.holds false) ∧
    (after (exec .render (running .date 0x23 { Params.default with pmIndMode := .raw }))).map (·.ind) =
      some (.holds true) := by decide
theorem test_render_lsd_first :
    framesOf (exec .render (running .date 0x71 { Params.default with digitOrder := .lsdFirst })) =
      some [(1, 0x06), (2, 0x02), (3, 0x03), (4, 0x00), (5, 0x01), (6, 0x01)] := by decide
theorem test_render_fault_order :
    (after (exec .render .reset)).map (·.fault) = some (some (.unwritten .ctlView)) ∧
    (after (exec .renderTime { State.reset with tr := [(1, 0x00), (2, 0x00)] })).map (fun s => (s.fault, s.frames)) =
      some (some (.unwritten (.tr .second)), []) := by decide
theorem test_renderDate :
    framesOf (exec .renderDate (editing .day 0xFF)) =
      some [(1, 0x01), (2, 0x01), (3, 0x00), (4, 0x03), (5, 0x02), (6, 0x06)] ∧
    framesOf (exec .renderDateOvlMonth (editing .day 0xFF)) =
      some [(1, 0x0F), (2, 0x0F), (3, 0x00), (4, 0x03), (5, 0x02), (6, 0x06)] ∧
    framesOf (exec .renderDateOvlDay (editing .day 0xFF)) =
      some [(1, 0x01), (2, 0x01), (3, 0x0F), (4, 0x0F), (5, 0x02), (6, 0x06)] ∧
    framesOf (exec .renderDateOvlYear (editing .day 0xFF)) =
      some [(1, 0x01), (2, 0x01), (3, 0x00), (4, 0x03), (5, 0x0F), (6, 0x0F)] := by decide
theorem test_renderDate_other_fields :
    framesOf (exec .renderDateOvlHour (editing .day 0xFF)) = framesOf (exec .renderDate (editing .day 0xFF)) ∧
    framesOf (exec .renderDateOvlMinute (editing .day 0xFF)) = framesOf (exec .renderDate (editing .day 0xFF)) := by
  decide
theorem test_renderTime :
    framesOf (exec .renderTime (editing .day 0xFF)) =
      some [(1, 0x00), (2, 0x01), (3, 0x00), (4, 0x07), (5, 0x00), (6, 0x00)] ∧
    framesOf (exec .renderTimeOvlHour (editing .day 0xFF)) =
      some [(1, 0x0F), (2, 0x0F), (3, 0x00), (4, 0x07), (5, 0x00), (6, 0x00)] ∧
    framesOf (exec .renderTimeOvlMinute (editing .day 0xFF)) =
      some [(1, 0x00), (2, 0x01), (3, 0x0F), (4, 0x0F), (5, 0x00), (6, 0x00)] := by decide
theorem test_renderTime_other_fields :
    framesOf (exec .renderTimeOvlMonth (editing .day 0xFF)) = framesOf (exec .renderTime (editing .day 0xFF)) ∧
    framesOf (exec .renderTimeOvlDay (editing .day 0xFF)) = framesOf (exec .renderTime (editing .day 0xFF)) ∧
    framesOf (exec .renderTimeOvlYear (editing .day 0xFF)) = framesOf (exec .renderTime (editing .day 0xFF)) := by
  decide
theorem test_setTr :
    (after (exec (.setTrYear 0xFF) .reset)).map (·.tr) = some [(6, 0xFF)] ∧
    (after (exec (.setTrSec 0x80) (editing .day 0))).map (·.tr.read 0) = some (some 0x80) := by decide
theorem test_setTr_each_index :
    (after (exec (.setTrMin 1) .reset)).map (·.tr) = some [(1, 1)] ∧
    (after (exec (.setTrHour 1) .reset)).map (·.tr) = some [(2, 1)] ∧
    (after (exec (.setTrDow 1) .reset)).map (·.tr) = some [(3, 1)] ∧
    (after (exec (.setTrDate 1) .reset)).map (·.tr) = some [(4, 1)] ∧
    (after (exec (.setTrMonth 1) .reset)).map (·.tr) = some [(5, 1)] := by decide
theorem test_setCtl :
    (after (exec (.setCtlMinute .date .set) .reset)).map (fun s => (s.ctlMode, s.ctlField, s.ctlView)) =
      some (.set, .holds .minute, .holds .date) ∧
    (after (exec (.setCtlMonth .time .run) .reset)).map (fun s => (s.ctlMode, s.ctlField, s.ctlView)) =
      some (.run, .holds .month, .holds .time) := by decide
theorem test_setCtl_fields :
    (after (exec (.setCtlDay .time .set) .reset)).map (·.ctlField) = some (.holds .day) ∧
    (after (exec (.setCtlYear .time .set) .reset)).map (·.ctlField) = some (.holds .year) ∧
    (after (exec (.setCtlHour .time .set) .reset)).map (·.ctlField) = some (.holds .hour) := by decide
theorem test_refused_step :
    (after (step { State.reset with pending := [0x600D, 0x5000] })).map (fun s => (s.refused, s.pending)) =
      some (some ⟨.rsvField, 0x600D⟩, [0x5000]) := by decide
theorem test_frame_word : Frame.word ⟨3, 0x0F⟩ = 0x030F := by decide

/-! ### Witnesses: states and operands that meet the hypotheses of the statements -/

theorem witness_DecodedWordIsItsEncoding : decode 0x330D = .ok (.encHour 13) := by decide

/-- A word for each clause of the order of R75, the first with no reserved check met before it. -/
theorem witness_ReservedWordsRefusedInOrder :
    reservedOpcode 0xA000 ∧
    (¬ reservedOpcode 0x2F00 ∧ reservedBits 0x2F00) ∧
    (¬ reservedOpcode 0x3500 ∧ ¬ reservedBits 0x3500 ∧ reservedSel 0x3500) ∧
    (¬ reservedOpcode 0x900A ∧ ¬ reservedBits 0x900A ∧ ¬ reservedSel 0x900A ∧ reservedField 0x900A) ∧
    (¬ reservedOpcode 0x9019 ∧ ¬ reservedBits 0x9019 ∧ ¬ reservedSel 0x9019 ∧ ¬ reservedField 0x9019) := by
  simp [reservedOpcode, reservedBits, reservedSel, reservedField, opClass]

theorem witness_PseudoOperations : 1 ≤ 1 := by decide

/-- A running block with two words to come. -/
def withWords (ws : List Word) : State := { editing .day 0x00 with pending := ws }

theorem witness_StepRunsDecodedOperation :
    (withWords [0x3103, 0x5000]).Running ∧ (withWords [0x3103, 0x5000]).pending = 0x3103 :: [0x5000] ∧
    decode 0x3103 = .ok (.encDay 3) := by decide
theorem witness_StepRefusesReservedWord :
    (withWords [0x4001]).Running ∧ (withWords [0x4001]).pending = 0x4001 :: [] ∧ decode 0x4001 = .error .rsvBits := by
  decide
theorem witness_NothingPresentedWaits : (withWords []).Running ∧ (withWords []).pending = [] := by decide

/-- Both marks, and a step that answers a next state. -/
theorem witness_MarkedStateHasNoStep :
    (raiseFault (.bcdRange 100) .reset).AbnormalEnd ∧ (refuse .rsvOpcode 0 .reset).AbnormalEnd ∧
    step .reset = .next .reset := ⟨by decide, by decide, rfl⟩
theorem witness_EveryStepHasOneOutcome :
    (withWords [0x1064]).Running ∧ (withWords [0x1064]).pending = 0x1064 :: [] := by decide
theorem witness_EveryRunEnds : (withWords [0x3103, 0x5000, 0x4000]).Running := by decide

theorem editing_booted (f : Field) (bf : Byte) : (editing f bf).Booted where
  view := by simp [editing]
  field := by simp [editing]
  bytes := by intro g _; show record.read g.index ≠ none; cases g <;> decide

theorem witness_ObedientHostEndsNormally :
    (withWords [0x3103, 0x5000]).Running ∧ (withWords [0x3103, 0x5000]).Booted ∧
    ∀ w ∈ (withWords [0x3103, 0x5000]).pending, ObedientWord w := by
  have hb := editing_booted .day 0x00
  refine ⟨by decide, ⟨hb.view, hb.field, hb.bytes⟩, ?_⟩
  intro w hw
  simp only [withWords, List.mem_cons, List.not_mem_nil, or_false] at hw
  obtain rfl | rfl := hw
  · exact ⟨.encDay 3, by decide, by simp [ClampedFirst]⟩
  · exact ⟨.render, by decide, by simp [ClampedFirst]⟩

theorem witness_StepKeepsInvariant : (withWords []).Inv ∧ step (withWords []) = .next (withWords []) :=
  ⟨⟨by decide, by decide, by decide, by decide, by decide⟩, rfl⟩
/-- The blink invariant with a next state, and a TICK that changes the count. -/
theorem witness_BlinkStateInvariant :
    State.reset.BlinkInv ∧ exec .tick .reset = .next { State.reset with bc := 1 } ∧
    (1 : Byte) ≠ State.reset.bc := ⟨by decide, rfl, by decide⟩
theorem witness_BlinkPeriod : State.reset.bc = 0 ∧ State.reset.bf = 0x00 ∧
    ({ Params.default with blinkThreshold := 99 } : Params).blinkThreshold = 99 := by decide
theorem witness_HostLeavesBlinkState : Instr.render ≠ .tick ∧
    exec .render .reset = .next (raiseFault (.unwritten .ctlView) .reset) := ⟨by decide, rfl⟩
/-- Two states the host cannot tell apart, and an operation of its own in both. -/
theorem witness_HostCannotObserveCount :
    Instr.setTrSec 5 ≠ .tick ∧ State.reset.rowView = ({ State.reset with bc := 7 } : State).rowView ∧
    State.reset.params = ({ State.reset with bc := 7 } : State).params ∧
    exec (.setTrSec 5) .reset = .next { State.reset with tr := [(0, 5)] } ∧
    exec (.setTrSec 5) { State.reset with bc := 7 } = .next { State.reset with bc := 7, tr := [(0, 5)] } :=
  ⟨by decide, rfl, rfl, rfl, rfl⟩

/-- The states of the execution in which only the tick agent steps. -/
def ticking : Nat → State
  | 0 => .reset
  | n + 1 => tickCounter { ticking n with pending := [] }

theorem ticking_running (n : Nat) : (ticking n).Running := by
  induction n with
  | zero => decide
  | succ n ih => simpa [ticking, State.Running] using ih

/-- The tick agent alone gives an infinite execution that is fair to it. -/
theorem witness_FairExecutionInvertsFlag :
    IsExecution (fun _ => 0x4000) ticking ∧ FairToTick fun _ => 0x4000 := by
  have hd : decode 0x4000 = .ok .tick := by decide
  refine ⟨fun n => ?_, fun n => ⟨n, le_rfl, hd⟩⟩
  have h : stopReason { ticking n with pending := [0x4000] } = none :=
    stopReason_eq_none.2 (show State.Running _ from ticking_running n)
  show step { ticking n with pending := [0x4000] } = .next (ticking (n + 1))
  simp only [step, h, nextWord, stepWord, hd]
  rfl

theorem witness_ToBcdPacksCount : (99 : Byte).toNat ≤ 99 ∧ 99 < (100 : Byte).toNat := by decide
theorem witness_DecodeHourByItsModeBit : (0x71 : Byte).getLsbD 6 = true ∧ (0x23 : Byte).getLsbD 6 = false := by decide
theorem witness_EncodeYearCommitsOrFaults : (99 : Byte).toNat ≤ 99 ∧ 99 < (100 : Byte).toNat := by decide
theorem witness_CodecRoundTrip : (99 : Byte).toNat ≤ 99 ∧ (59 : Byte).toNat ≤ 59 ∧
    (9 : Byte).toNat ≤ (10 : Byte).toNat ∧ (10 : Byte).toNat ≤ 99 := by decide
theorem witness_CommittedBytesComply :
    State.reset.fault = none ∧ (after (exec (.encOf .hour 13) .reset)).map (·.fault) = some none := by decide
theorem witness_RepeatingIsIdempotent :
    isIdempotent (.encOf .day 3) ∧ (after (exec (.encOf .day 3) .reset)).isSome = true ∧
    exec .tick .reset = .next { State.reset with bc := 1 } := ⟨.inr (.inr ⟨.day, 3, rfl⟩), by decide, rfl⟩

/-- All three bytes written, and each of them the first unwritten one. -/
theorem witness_RenderDateEmitsDateView :
    ((editing .day 0).tr.read 5 = some 0x11 ∧ (editing .day 0).tr.read 4 = some 0x03 ∧
      (editing .day 0).tr.read 6 = some 0x26) ∧
    firstUnwritten .reset (bytesOf .date) = some .month ∧
    firstUnwritten { State.reset with tr := [(5, 0)] } (bytesOf .date) = some .date ∧
    firstUnwritten { State.reset with tr := [(4, 0), (5, 0)] } (bytesOf .date) = some .year := by decide
theorem witness_RenderTimeEmitsTimeView :
    ((editing .day 0).tr.read 2 = some 0x61 ∧ (editing .day 0).tr.read 1 = some 0x07 ∧
      (editing .day 0).tr.read 0 = some 0x00) ∧
    firstUnwritten .reset (bytesOf .time) = some .hour ∧
    firstUnwritten { State.reset with tr := [(2, 0)] } (bytesOf .time) = some .minute ∧
    firstUnwritten { State.reset with tr := [(1, 0), (2, 0)] } (bytesOf .time) = some .second := by decide
theorem witness_RenderInRunMode :
    (running .date 0x71 .default).ctlMode = .run ∧ (running .date 0x71 .default).tr.read 2 = some 0x71 ∧
    (running .date 0x71 .default).ctlView = .holds .date ∧ (running .date 0x71 .default).tr.read 5 = some 0x11 ∧
    (running .date 0x71 .default).tr.read 4 = some 0x03 ∧ (running .date 0x71 .default).tr.read 6 = some 0x26 ∧
    (running .time 0x71 .default).ctlView = .holds .time ∧ (running .time 0x71 .default).tr.read 1 = some 0x07 ∧
    (running .time 0x71 .default).tr.read 0 = some 0x00 := by decide
theorem witness_RenderInSetMode :
    (editing .year 0xFF).ctlMode = .set ∧ (editing .year 0xFF).ctlField = .holds .year ∧
    (editing .year 0xFF).tr.read 5 = some 0x11 ∧ (editing .year 0xFF).tr.read 4 = some 0x03 ∧
    (editing .year 0xFF).tr.read 6 = some 0x26 ∧ (editing .hour 0xFF).ctlField = .holds .hour ∧
    (editing .hour 0xFF).tr.read 2 = some 0x61 ∧ (editing .hour 0xFF).tr.read 1 = some 0x07 ∧
    (editing .hour 0xFF).tr.read 0 = some 0x00 := by decide

/-- A state for each of the six clauses of the order of reads. -/
theorem witness_RenderFaultOrder :
    (State.reset.ctlMode = .run ∧ State.reset.ctlView = .unwritten) ∧
    (({ State.reset with ctlView := .holds .date } : State).ctlView = .holds .date ∧ State.reset.tr.read 2 = none) ∧
    (({ State.reset with tr := [(2, 0)], ctlView := .holds .date } : State).tr.read 2 ≠ none ∧
      firstUnwritten { State.reset with tr := [(2, 0)], ctlView := .holds .date } (bytesOf .date) = some .month) ∧
    (({ State.reset with ctlMode := .set } : State).ctlMode = .set ∧ State.reset.ctlField = .unwritten) ∧
    (({ State.reset with ctlMode := .set, ctlField := .holds .day } : State).ctlField = .holds .day ∧
      firstUnwritten { State.reset with ctlMode := .set, ctlField := .holds .day } [.month, .date, .year] =
        some .month) ∧
    (({ State.reset with ctlMode := .set, ctlField := .holds .minute } : State).ctlField = .holds .minute ∧
      firstUnwritten { State.reset with ctlMode := .set, ctlField := .holds .minute } [.hour, .minute, .second] =
        some .hour) := by decide
theorem witness_RunModeNeverOverlays : (running .date 0x71 .default).ctlMode = .run := by decide
theorem witness_OverlayReachesOnlyEditedPair :
    (editing .day 0).ctlMode = .set ∧ (editing .day 0).ctlField = .holds .day ∧ (editing .day 0).fault = none ∧
    (after (exec .render { editing .day 0 with bf := 0x00 })).isSome = true ∧
    (after (exec .render { editing .day 0 with bf := 0xFF })).map (·.fault) = some none := by decide
theorem witness_EveryPassEmitsSixFrames :
    isRender .render ∧ isRender .renderDateOvlDay ∧ isRender .renderTime :=
  ⟨.inl rfl, .inr ⟨some .day, .inl rfl⟩, .inr ⟨none, .inr rfl⟩⟩
/-- Two states that differ only in the count, and a pass in both. -/
theorem witness_SameInputsSameFrames :
    isRender .render ∧ ({ editing .day 0xFF with bc := 7 } : State).params = (editing .day 0xFF).params ∧
    (after (exec .render { editing .day 0xFF with bc := 7 })).isSome = true ∧
    (after (exec .render (editing .day 0xFF))).isSome = true := ⟨.inl rfl, rfl, by decide, by decide⟩
theorem witness_CommitThenRenderShowsCount :
    (editing .year 0).Booted ∧ (editing .year 0).ctlMode = .set ∧ (editing .year 0).ctlField = .holds .year ∧
    (editing .year 0).bf = 0x00 ∧ (99 : Byte).toNat ≤ 99 := ⟨editing_booted .year 0, rfl, rfl, rfl, by decide⟩
theorem witness_SetCtlLatchesAllThree : 5 ≤ (5 : BitVec 3).toNat := by decide
theorem witness_TimeRecordReadAfterWrite :
    (editing .day 0).tr.read TrField.year.index = some 0x26 ∧ TrField.hour ≠ TrField.minute ∧
    State.reset.tr.read TrField.hour.index = none := by decide
/-- A byte changed at each index. -/
theorem witness_OnlyTableWritesReachTimeRecord :
    (after (exec (.encMinute 7) .reset)).map (·.tr.read 1) = some (some 0x07) ∧ State.reset.tr.read 1 = none := by decide
theorem witness_DayOfWeekIsNeverRead :
    agreeButDayOfWeek (editing .day 0) { editing .day 0 with tr := record.write 3 0x07 } ∧
    (after (exec .render (editing .day 0))).isSome = true ∧
    (after (exec .render { editing .day 0 with tr := record.write 3 0x07 })).isSome = true := by
  refine ⟨⟨rfl, fun a ha => ?_⟩, by decide, by decide⟩
  exact (Memory.read_write_other record 0x07 (Ne.symm ha)).symm
/-- A fault of each cause. -/
theorem witness_FaultCauses :
    (after (exec (.toBcd 255) .reset)).map (·.fault) = some (some (.bcdRange 255)) ∧
    (after (exec (.encYear 100) .reset)).map (·.fault) = some (some (.bcdRange 100)) ∧
    (after (exec .renderTime .reset)).map (·.fault) = some (some (.unwritten (.tr .hour))) := by decide
theorem witness_CodecLatchFrame :
    (after (exec (.toBcd 99) .reset)).isSome = true ∧ (after (exec (.toBcd 100) .reset)).isSome = true ∧
    (after (exec (.decOf .year 0x26) .reset)).isSome = true := by decide
theorem witness_CommitFrame :
    (after (exec (.encOf .hour 23) .reset)).isSome = true ∧ (after (exec (.encOf .year 100) .reset)).isSome = true := by
  decide
theorem witness_HostPortFrame :
    (after (exec (.setTrOf .dayOfWeek 1) .reset)).isSome = true ∧
    (after (exec (.setCtlOf .hour .date .set) .reset)).isSome = true := by decide
theorem witness_RenderFrame :
    isRender .renderDate ∧ (after (exec .renderDate (editing .day 0))).isSome = true :=
  ⟨.inr ⟨none, .inl rfl⟩, by decide⟩
/-- A host operation that is no render, and a tick. -/
theorem witness_FlagReachesHostOnlyInFrames :
    Instr.setTrSec 5 ≠ .tick ∧ ¬ isRender (.setTrSec 5) ∧
    exec .tick .reset = .next { State.reset with bc := 1 } := by
  refine ⟨by decide, ?_, rfl⟩
  rintro (h | ⟨_ | f, h | h⟩) <;> first | cases h | (cases f <;> cases h)
theorem witness_OperationsKeepConfiguration : (after (exec .render (editing .day 0))).isSome = true := by decide

end Sys2Proof.Tests
end

section
/-!
PROOFS of the scope statements: what a step does with a presented word (00_scope.md R10), and that no operation changes the
parameters of R6 or the words still to be presented.
-/

namespace Sys2Proof.Proofs.Scope

open Sys2Proof.Machine

/-! ### The step on a presented word -/

/-- A running block with a word presented takes that word's step, in the state where it has been presented. -/
theorem step_of_presented {s : State} {w : Word} {rest : List Word} (hrun : s.Running) (hw : s.pending = w :: rest) :
    step s = stepWord w { s with pending := rest } := by
  simp only [step, stopReason_eq_none.2 hrun, nextWord_cons hw]

/-- A reserved word is refused. -/
theorem stepWord_of_reserved {w : Word} {r : RefusalReason} (hd : decode w = .error r) (s : State) :
    stepWord w s = .next (refuse r w s) := by
  simp only [stepWord, hd]

/-- Settles O8: the marks are clear and the word is presented, so the step is the decoder's refusal of it, which writes
REFUSED alone. -/
theorem stepRefusesReservedWord : Obligations.StepRefusesReservedWord := by
  intro s w rest r hrun hw hd
  calc step s = stepWord w { s with pending := rest } := step_of_presented hrun hw
    _ = .next (refuse r w { s with pending := rest }) := stepWord_of_reserved hd _

/-! ### The configuration and the words to come -/

/-- No update that a host operation ends in touches the model's own two fields. -/
theorem hostEffect_keeps_configuration {s t : State} (h : HostEffect s t) :
    t.params = s.params ∧ t.pending = s.pending := by
  cases h <;> simp

/-- Settles O52, over the updates an operation can end in: TICK's counter, or one of those of the host operations. -/
theorem operationsKeepConfiguration : Obligations.OperationsKeepConfiguration := by
  intro i s t h
  by_cases hi : i = .tick
  · subst hi
    rw [exec_tick] at h
    obtain rfl := Host.Outcome.next.inj h
    exact ⟨tickCounter_params s, tickCounter_pending s⟩
  · obtain ⟨u, hu, effect⟩ := exec_host_effect i hi s
    obtain rfl := Host.Outcome.next.inj (hu.symm.trans h)
    exact hostEffect_keeps_configuration effect

end Sys2Proof.Proofs.Scope
end

section
/-!
PROOFS of the state's statements (10_state.md), the layer they share: the host operations by family, each with the equation
of its `exec`, and what the render operations do to a state whatever its blink state and the words still to come.
-/

namespace Sys2Proof.Proofs.HostOperations

open Sys2Proof.Machine Sys2Proof.Spec

/-! ### The operations by family -/

/-- The families of host operations, by the constructors of 30_encoding.md R76. -/
inductive HostOperation : Instr → Prop where
  | toBcd (n : Byte) : HostOperation (.toBcd n)
  | dec (f : TrField) (b : Byte) : HostOperation (.decOf f b)
  | enc (f : Field) (v : Byte) : HostOperation (.encOf f v)
  | render {i : Instr} (hi : isRender i) : HostOperation i
  | setTr (f : TrField) (b : Byte) : HostOperation (.setTrOf f b)
  | setCtl (f : Field) (view : View) (mode : Mode) : HostOperation (.setCtlOf f view mode)

theorem hostOperation_renderDate (ovl : Option Field) : HostOperation (.renderDateOf ovl) :=
  .render (.inr ⟨ovl, .inl rfl⟩)

theorem hostOperation_renderTime (ovl : Option Field) : HostOperation (.renderTimeOf ovl) :=
  .render (.inr ⟨ovl, .inr rfl⟩)

/-- Every operation but TICK is of one of the families. -/
theorem hostOperation_of_ne_tick {i : Instr} (hi : i ≠ .tick) : HostOperation i := by
  cases i with
  | toBcd n => exact .toBcd n
  | decSec b => exact .dec .second b
  | decMin b => exact .dec .minute b
  | decHour b => exact .dec .hour b
  | decDow b => exact .dec .dayOfWeek b
  | decDate b => exact .dec .date b
  | decMonth b => exact .dec .month b
  | decYear b => exact .dec .year b
  | encMonth v => exact .enc .month v
  | encDay v => exact .enc .day v
  | encYear v => exact .enc .year v
  | encHour v => exact .enc .hour v
  | encMinute v => exact .enc .minute v
  | tick => exact absurd rfl hi
  | render => exact .render (.inl rfl)
  | renderDate => exact hostOperation_renderDate none
  | renderDateOvlMonth => exact hostOperation_renderDate (some .month)
  | renderDateOvlDay => exact hostOperation_renderDate (some .day)
  | renderDateOvlYear => exact hostOperation_renderDate (some .year)
  | renderDateOvlHour => exact hostOperation_renderDate (some .hour)
  | renderDateOvlMinute => exact hostOperation_renderDate (some .minute)
  | renderTime => exact hostOperation_renderTime none
  | renderTimeOvlMonth => exact hostOperation_renderTime (some .month)
  | renderTimeOvlDay => exact hostOperation_renderTime (some .day)
  | renderTimeOvlYear => exact hostOperation_renderTime (some .year)
  | renderTimeOvlHour => exact hostOperation_renderTime (some .hour)
  | renderTimeOvlMinute => exact hostOperation_renderTime (some .minute)
  | setTrSec b => exact .setTr .second b
  | setTrMin b => exact .setTr .minute b
  | setTrHour b => exact .setTr .hour b
  | setTrDow b => exact .setTr .dayOfWeek b
  | setTrDate b => exact .setTr .date b
  | setTrMonth b => exact .setTr .month b
  | setTrYear b => exact .setTr .year b
  | setCtlMonth view mode => exact .setCtl .month view mode
  | setCtlDay view mode => exact .setCtl .day view mode
  | setCtlYear view mode => exact .setCtl .year view mode
  | setCtlHour view mode => exact .setCtl .hour view mode
  | setCtlMinute view mode => exact .setCtl .minute view mode

/-! ### What each family answers -/

theorem exec_decOf (f : TrField) (b : Byte) (s : State) :
    exec (.decOf f b) s = .next (latchDigits (decodeField f b) s) := by
  cases f <;> rfl

theorem exec_setTrOf (f : TrField) (b : Byte) (s : State) : exec (.setTrOf f b) s = .next (memWrite f b s) := by
  cases f <;> rfl

theorem exec_setCtlOf (f : Field) (view : View) (mode : Mode) (s : State) :
    exec (.setCtlOf f view mode) s = .next (latchControl f view mode s) := by
  cases f <;> rfl

theorem exec_renderDateOf (ovl : Option Field) (s : State) :
    exec (.renderDateOf ovl) s = settle s (viewFrames .date ovl s.bf s) := by
  obtain _ | f := ovl
  · rfl
  · cases f <;> rfl

theorem exec_renderTimeOf (ovl : Option Field) (s : State) :
    exec (.renderTimeOf ovl) s = settle s (viewFrames .time ovl s.bf s) := by
  obtain _ | f := ovl
  · rfl
  · cases f <;> rfl

/-- TO_BCD of a count of at most 99 latches a byte that depends on the count alone. -/
theorem exec_toBcd_le {n : Byte} (h : n.toNat ≤ 99) :
    ∃ b : Byte, ∀ s, exec (.toBcd n) s = .next { s with rByte := .holds b } := by
  refine ⟨BitVec.ofNat 4 (n.toNat / 10) ++ BitVec.ofNat 4 (n.toNat % 10), fun s => ?_⟩
  show settle s (toBcd n >>= fun b => pure { s with rByte := .holds b }) = _
  rw [toBcd_le n h]; rfl

/-- TO_BCD of a count above 99 faults (40_codec.md R105). -/
theorem exec_toBcd_gt {n : Byte} (h : 99 < n.toNat) (s : State) :
    exec (.toBcd n) s = .next (raiseFault (.bcdRange n) s) := by
  show settle s (toBcd n >>= fun b => pure { s with rByte := .holds b }) = _
  rw [toBcd_gt n h]; rfl

/-- A settled masked commit of a count of at most 99. -/
theorem settle_commitMasked {f : Field} {c : Byte} (mask : Byte) (h : c.toNat ≤ 99) :
    ∃ b, ∀ s, settle s (commitMasked f c mask s) = .next (commitByte f c b s) :=
  ⟨_, fun s => by rw [commitMasked_le f c mask s h]; rfl⟩

/-- A settled hour commit of a count of at most 23, by whether the parameters subtract. -/
theorem settle_commitHour (p : Params) {c : Byte} (h : c.toNat ≤ 23) :
    ∃ b, ∀ s, s.params = p → settle s (commitHour c s) = .next (commitByte .hour c b s) := by
  have hle := hourCount_le p.hourPmSubtract c
  have hb := toBcd_le (hourCount p.hourPmSubtract c) (by omega)
  exact ⟨_, fun s hp => by rw [commitHour, hp, hb]; rfl⟩

/-- A clamped count is at most its maximum. -/
theorem clamp_le {m : Nat} (v max : Byte) (h : max.toNat ≤ m) : (clamp v max).toNat ≤ m := by
  rw [clamp_toNat]; omega

/-- ENC commits, but for ENC.YEAR of a count above 99, and what it commits depends on the count and the parameters alone. -/
theorem exec_encOf_commits (p : Params) {f : Field} {v : Byte} (h : f ≠ .year ∨ v.toNat ≤ 99) :
    ∃ c b, ∀ s, s.params = p → exec (.encOf f v) s = .next (commitByte f c b s) := by
  cases f with
  | month =>
    obtain ⟨b, hb⟩ := settle_commitMasked (f := .month) monthMask (clamp_le v 12 (by decide))
    exact ⟨_, b, fun s _ => hb s⟩
  | day =>
    obtain ⟨b, hb⟩ := settle_commitMasked (f := .day) dateMask (clamp_le v 31 (by decide))
    exact ⟨_, b, fun s _ => hb s⟩
  | year =>
    obtain ⟨b, hb⟩ := settle_commitMasked (f := .year) yearMask (h.resolve_left fun hn => hn rfl)
    exact ⟨_, b, fun s _ => hb s⟩
  | hour =>
    obtain ⟨b, hb⟩ := settle_commitHour p (clamp_le v 23 (by decide))
    exact ⟨_, b, hb⟩
  | minute =>
    obtain ⟨b, hb⟩ := settle_commitMasked (f := .minute) minuteMask (clamp_le v 59 (by decide))
    exact ⟨_, b, fun s _ => hb s⟩

/-- ENC.YEAR of a count above 99 faults (40_codec.md R115). -/
theorem exec_encYear_gt {v : Byte} (h : 99 < v.toNat) (s : State) :
    exec (.encOf .year v) s = .next (raiseFault (.bcdRange v) s) := by
  show settle s (commitMasked .year v yearMask s) = _
  rw [commitMasked_gt .year v yearMask s h]; rfl

/-! ### What a render does whatever the blink state -/

/-- The state with another blink state and other words to come. No host operation reads these, but a render the flag. -/
def unseen (c x : Byte) (ws : List Word) (s : State) : State := { s with bc := c, bf := x, pending := ws }

/-- A state is itself with its own blink state and words to come. -/
@[simp] theorem unseen_self (s : State) : unseen s.bc s.bf s.pending s = s := rfl

/-- Reading the digits of some pairs faults, or gives digits, in the same way under every flag and blink state. -/
theorem readDigits_unseen (ovl : Option Field) (s : State) (ps : List DigitPair) :
    (∃ m, ∀ c x ws, readDigits ovl x (unseen c x ws s) ps = .error m) ∨
      (∃ ds : Byte → List Nibble, ∀ c x ws, readDigits ovl x (unseen c x ws s) ps = .ok (ds x)) := by
  induction ps with
  | nil => exact .inr ⟨fun _ => [], fun _ _ _ => rfl⟩
  | cons p rest ih =>
    have hread : ∀ c x ws, memRead p.field (unseen c x ws s) = memRead p.field s := fun _ _ _ => rfl
    cases hb : memRead p.field s with
    | error m => exact .inl ⟨m, fun c x ws => readDigits_fault ((hread c x ws).trans hb)⟩
    | ok b =>
      obtain ⟨m, hm⟩ | ⟨ds, hds⟩ := ih
      · exact .inl ⟨m, fun c x ws => readDigits_fault_later ((hread c x ws).trans hb) (hm c x ws)⟩
      · exact .inr ⟨fun x => pairDigits ovl x p b ++ ds x,
          fun c x ws => readDigits_cons ((hread c x ws).trans hb) (hds c x ws)⟩

/-- A view pass faults, or emits its frames, in the same way under every blink state. -/
theorem viewFrames_unseen (view : View) (ovl : Option Field) (s : State) :
    (∃ m, ∀ c x ws, viewFrames view ovl x (unseen c x ws s) = .error m) ∨
      (∃ ds : Byte → List Nibble, ∀ c x ws, viewFrames view ovl x (unseen c x ws s) =
        .ok (emitFrames (digitFrames s.params.digitOrder (ds x)) (unseen c x ws s))) := by
  obtain ⟨m, hm⟩ | ⟨ds, hds⟩ := readDigits_unseen ovl s (viewPairs view)
  · exact .inl ⟨m, fun c x ws => by simp only [viewFrames, hm]; rfl⟩
  · exact .inr ⟨ds, fun c x ws => viewFrames_of_digits (hds c x ws)⟩

/-- How a render pass ends on a state, whatever its blink state and the words to come: always in the same fault, or always in
six frames whose digits depend on the flag alone, with the indicator `ind`. -/
def PassEnds (op : State → Next) (s : State) (ind : Latch Bool) : Prop :=
  (∃ m, ∀ c x ws, op (unseen c x ws s) = .next (raiseFault m (unseen c x ws s))) ∨
  (∃ ds : Byte → List Nibble, ∀ c x ws, op (unseen c x ws s) =
    .next { emitFrames (digitFrames s.params.digitOrder (ds x)) (unseen c x ws s) with ind := ind })

/-- A view pass alone leaves the indicator. -/
theorem viewFrames_passEnds (view : View) (ovl : Option Field) (s : State) :
    PassEnds (fun u => settle u (viewFrames view ovl u.bf u)) s s.ind := by
  obtain ⟨m, hm⟩ | ⟨ds, hds⟩ := viewFrames_unseen view ovl s
  · exact .inl ⟨m, fun c x ws => congrArg (settle (unseen c x ws s)) (hm c x ws)⟩
  · exact .inr ⟨ds, fun c x ws => congrArg (settle (unseen c x ws s)) (hds c x ws)⟩

/-- A view pass that sets the indicator. -/
theorem indicated_passEnds (view : View) (ovl : Option Field) (v : Bool) (s : State) :
    PassEnds (fun u => settle u ((viewFrames view ovl u.bf u).map (setIndicator v))) s (.holds v) := by
  obtain ⟨m, hm⟩ | ⟨ds, hds⟩ := viewFrames_unseen view ovl s
  · exact .inl ⟨m, fun c x ws => congrArg (settle (unseen c x ws s) <| ·.map (setIndicator v)) (hm c x ws)⟩
  · exact .inr ⟨ds, fun c x ws => congrArg (settle (unseen c x ws s) <| ·.map (setIndicator v)) (hds c x ws)⟩

/-- An operation that agrees with a pass under every blink state ends as the pass does. -/
theorem PassEnds.congr {op op' : State → Next} {s : State} {ind : Latch Bool} (h : PassEnds op s ind)
    (heq : ∀ c x ws, op' (unseen c x ws s) = op (unseen c x ws s)) : PassEnds op' s ind := by
  simpa only [PassEnds, heq] using h

/-- An attempt that always faults the same way. -/
theorem passEnds_of_fault {op : State → Next} {s : State} {m : FaultMark} (ind : Latch Bool)
    (h : ∀ c x ws, op (unseen c x ws s) = settle (unseen c x ws s) (.error m)) : PassEnds op s ind :=
  .inl ⟨m, h⟩

/-- RENDER in Run mode, by the order of its reads (42_display.md R169). -/
theorem renderRun_passEnds {s : State} (hm : s.ctlMode = .run) : ∃ ind, PassEnds execRender s ind := by
  have hrun : ∀ c x ws, execRender (unseen c x ws s) = settle (unseen c x ws s) (renderRun x (unseen c x ws s)) :=
    fun c x ws => execRender_run (s := unseen c x ws s) hm
  cases hv : s.ctlView with
  | unwritten =>
    exact ⟨s.ind, passEnds_of_fault _ fun c x ws => by
      rw [hrun, renderRun_view_unwritten (s := unseen c x ws s) hv]⟩
  | holds view =>
    cases hh : s.tr.read 2 with
    | none =>
      exact ⟨s.ind, passEnds_of_fault _ fun c x ws => by
        rw [hrun, renderRun_hour_unwritten (s := unseen c x ws s) hv hh]⟩
    | some h =>
      refine ⟨_, (indicated_passEnds view none (pmInd s.params.pmIndMode h) s).congr fun c x ws => ?_⟩
      rw [hrun, renderRun_written (s := unseen c x ws s) hv (memRead_eq_ok.2 hh)]; rfl

/-- RENDER in Set mode, by the order of its reads (42_display.md R170). -/
theorem renderSet_passEnds {s : State} (hm : s.ctlMode = .set) : ∃ ind, PassEnds execRender s ind := by
  have hset : ∀ c x ws, execRender (unseen c x ws s) = settle (unseen c x ws s) (renderSet x (unseen c x ws s)) :=
    fun c x ws => execRender_set (s := unseen c x ws s) hm
  cases hf : s.ctlField with
  | unwritten =>
    exact ⟨s.ind, passEnds_of_fault _ fun c x ws => by
      rw [hset, renderSet_field_unwritten (s := unseen c x ws s) hf]⟩
  | holds fl =>
    refine ⟨_, (indicated_passEnds (shownBy fl) (some fl) (setInd (shownBy fl)) s).congr fun c x ws => ?_⟩
    rw [hset, renderSet_written (s := unseen c x ws s) hf]; rfl

/-- Every render operation ends as a pass, and only RENDER writes the indicator (10_state.md R28). -/
theorem exec_passEnds {i : Instr} (hi : isRender i) (s : State) :
    ∃ ind, (i ≠ .render → ind = s.ind) ∧ PassEnds (exec i) s ind := by
  obtain rfl | ⟨ovl, rfl | rfl⟩ := hi
  · have hpass : ∃ ind, PassEnds execRender s ind := by
      cases hm : s.ctlMode with
      | run => exact renderRun_passEnds hm
      | set => exact renderSet_passEnds hm
    obtain ⟨ind, hind⟩ := hpass
    exact ⟨ind, fun hne => absurd rfl hne, hind⟩
  · exact ⟨s.ind, fun _ => rfl, (viewFrames_passEnds .date ovl s).congr fun _ _ _ => exec_renderDateOf ovl _⟩
  · exact ⟨s.ind, fun _ => rfl, (viewFrames_passEnds .time ovl s).congr fun _ _ _ => exec_renderTimeOf ovl _⟩

/-- What a render operation answers on the state itself. -/
theorem exec_render_cases {i : Instr} {s t : State} (hi : isRender i) (h : exec i s = .next t) :
    (∃ m, t = raiseFault m s) ∨
      (∃ fs ind, (i ≠ .render → ind = s.ind) ∧ t = { emitFrames fs s with ind := ind }) := by
  obtain ⟨ind, hind, ⟨m, hm⟩ | ⟨ds, hds⟩⟩ := exec_passEnds hi s
  · exact .inl ⟨m, Host.Outcome.next.inj (h.symm.trans (hm s.bc s.bf s.pending))⟩
  · exact .inr ⟨_, ind, hind, Host.Outcome.next.inj (h.symm.trans (hds s.bc s.bf s.pending))⟩

end Sys2Proof.Proofs.HostOperations
end

section
/-!
PROOFS of the invariant's statements (10_state.md R26, R29, 20_memory.md R50, R54, R57, 60_exceptions.md R220): it holds at
power-on, and every step keeps it, over the updates an operation can end in.
-/

namespace Sys2Proof.Proofs.Invariant

open Sys2Proof.Machine

/-- Settles O15: every register, the memory and the frame log are at their reset values. -/
theorem resetMeetsInvariant : Obligations.ResetMeetsInvariant := fun _ =>
  { blink := ⟨.inl rfl, Nat.zero_le _⟩
    memory := rfl
    digits := fun _ hf => absurd hf List.not_mem_nil
    passes := rfl
    oneMark := .inl rfl }

/-! ### What an operation can do to each part of the invariant -/

/-- An operation that answers a next state is TICK, or ends in one of the updates of the host operations. -/
theorem exec_next_cases {i : Instr} {s t : State} (h : exec i s = .next t) :
    (i = .tick ∧ t = tickCounter s) ∨ (i ≠ .tick ∧ HostEffect s t) := by
  by_cases hi : i = .tick
  · subst hi
    exact .inl ⟨rfl, (Host.Outcome.next.inj h).symm⟩
  · obtain ⟨u, hu, effect⟩ := exec_host_effect i hi s
    obtain rfl := Host.Outcome.next.inj (hu.symm.trans h)
    exact .inr ⟨hi, effect⟩

/-- No update of a host operation touches the blink state. -/
theorem hostEffect_keeps_blinkState {s t : State} (h : HostEffect s t) : t.bc = s.bc ∧ t.bf = s.bf := by
  cases h <;> simp

theorem hostEffect_keeps_refused {s t : State} (h : HostEffect s t) : t.refused = s.refused := by
  cases h <;> simp

/-- A host operation leaves the Time Record or writes one byte of it. -/
theorem hostEffect_tr {s t : State} (h : HostEffect s t) :
    t.tr = s.tr ∨ ∃ (f : TrField) (v : Byte), t.tr = s.tr.write f.index v := by
  cases h with
  | committed f c b => exact .inr ⟨committedTo f, b, rfl⟩
  | stored f v => exact .inr ⟨f, v, rfl⟩
  | _ => exact .inl rfl

/-- A host operation leaves the frame log or appends one pass. -/
theorem hostEffect_frames {s t : State} (h : HostEffect s t) :
    t.frames = s.frames ∨ ∃ order ds, t.frames = s.frames ++ digitFrames order ds := by
  cases h with
  | emitted ds _ => exact .inr ⟨s.params.digitOrder, ds, rfl⟩
  | rendered ds _ v => exact .inr ⟨s.params.digitOrder, ds, rfl⟩
  | _ => exact .inl rfl

/-- The frames of a pass are digit writes (20_memory.md R54, R57). -/
theorem digitFrames_digit (order : DigitOrder) (ds : List Nibble) : ∀ f ∈ digitFrames order ds, f.Digit := by
  intro f hf
  have haddr : f.addr ∈ ([1, 2, 3, 4, 5, 6] : List Byte) := digitFrames_addr order ds ▸ List.mem_map_of_mem hf
  have hrange : ∀ a ∈ ([1, 2, 3, 4, 5, 6] : List Byte), 1 ≤ a.toNat ∧ a.toNat ≤ 6 := by decide
  obtain ⟨hlo, hhi⟩ := hrange _ haddr
  exact ⟨hlo, hhi, digitFrames_data order ds f hf⟩

/-! ### The blink state -/

/-- The flag has its two values, which a tick exchanges (10_state.md R25, 41_blink.md R141). -/
theorem tickCounter_flag {s : State} (h : s.bf = 0x00 ∨ s.bf = 0xFF) :
    (tickCounter s).bf = 0x00 ∨ (tickCounter s).bf = 0xFF := by
  by_cases hc : s.bc.toNat + 1 ≤ s.params.blinkThreshold.toNat
  · rwa [tickCounter_under s hc]
  · rw [tickCounter_over s (by omega)]
    obtain h0 | h1 := h
    · exact .inr (by simp [h0, invertFlag])
    · exact .inl (by simp [h1, invertFlag])

theorem tickCounter_keeps_blinkInv {s : State} (h : s.BlinkInv) : (tickCounter s).BlinkInv := by
  obtain ⟨hflag, -⟩ := h
  refine ⟨tickCounter_flag hflag, ?_⟩
  rw [tickCounter_params]
  exact tickCounter_bounded s

theorem hostEffect_keeps_blinkInv {s t : State} (effect : HostEffect s t) (h : s.BlinkInv) : t.BlinkInv := by
  obtain ⟨hbc, hbf⟩ := hostEffect_keeps_blinkState effect
  obtain ⟨hparams, -⟩ := Scope.hostEffect_keeps_configuration effect
  rwa [State.BlinkInv, hbc, hbf, hparams]

/-- Settles O17: power-on meets R26, a tick exchanges the flag's two values and stays within the threshold, and no other
operation touches the blink state. -/
theorem blinkStateInvariant : Obligations.BlinkStateInvariant := by
  refine ⟨fun p => (resetMeetsInvariant p).blink, fun i s t hs h => ?_, fun i s t h hchange => ?_⟩
  · obtain ⟨-, rfl⟩ | ⟨-, effect⟩ := exec_next_cases h
    · exact tickCounter_keeps_blinkInv hs
    · exact hostEffect_keeps_blinkInv effect hs
  · obtain ⟨htick, -⟩ | ⟨-, effect⟩ := exec_next_cases h
    · exact htick
    · obtain ⟨hbc, hbf⟩ := hostEffect_keeps_blinkState effect
      exact absurd hchange (by simp [hbc, hbf])

/-! ### The whole invariant -/

theorem tickCounter_keeps_inv {s : State} (h : s.Inv) : (tickCounter s).Inv where
  blink := tickCounter_keeps_blinkInv h.blink
  memory := by simpa using h.memory
  digits := by simpa using h.digits
  passes := by simpa using h.passes
  oneMark := by simpa using h.oneMark

/-- A host operation of a block that refused no word keeps the invariant: it writes the Time Record within its space, emits
a whole pass of digits or none, and sets no mark but FAULT. -/
theorem hostEffect_keeps_inv {s t : State} (effect : HostEffect s t) (hr : s.refused = none) (h : s.Inv) : t.Inv where
  blink := hostEffect_keeps_blinkInv effect h.blink
  memory := by
    obtain htr | ⟨f, v, htr⟩ := hostEffect_tr effect
    · rw [htr]; exact h.memory
    · rw [htr]; exact memWrite_wf f v s h.memory
  digits := by
    obtain hfs | ⟨order, ds, hfs⟩ := hostEffect_frames effect
    · rw [hfs]; exact h.digits
    · rw [hfs]; exact List.forall_mem_append.2 ⟨h.digits, digitFrames_digit order ds⟩
  passes := by
    obtain hfs | ⟨order, ds, hfs⟩ := hostEffect_frames effect
    · rw [hfs]; exact h.passes
    · rw [hfs, List.length_append, digitFrames_length, Nat.add_mod_right]; exact h.passes
  oneMark := .inr ((hostEffect_keeps_refused effect).trans hr)

theorem exec_keeps_inv {i : Instr} {s t : State} (hr : s.refused = none) (hs : s.Inv) (h : exec i s = .next t) :
    t.Inv := by
  obtain ⟨-, rfl⟩ | ⟨-, effect⟩ := exec_next_cases h
  · exact tickCounter_keeps_inv hs
  · exact hostEffect_keeps_inv effect hr hs

/-- Refusing a word of a block without a fault keeps the invariant. -/
theorem refuse_keeps_inv {s : State} (r : RefusalReason) (w : Word) (hf : s.fault = none) (hs : s.Inv) :
    (refuse r w s).Inv :=
  ⟨hs.blink, hs.memory, hs.digits, hs.passes, .inl hf⟩

theorem stepWord_keeps_inv {w : Word} {s t : State} (hrun : s.Running) (hs : s.Inv) (h : stepWord w s = .next t) :
    t.Inv := by
  obtain ⟨hf, hr⟩ := hrun
  obtain ⟨i, -, hi⟩ | ⟨r, -, hw⟩ := stepWord_cases w s
  · exact exec_keeps_inv hr hs (hi.symm.trans h)
  · obtain rfl := Host.Outcome.next.inj (hw.symm.trans h)
    exact refuse_keeps_inv r w hf hs

/-- A step that answers waits, or takes the step of the word presented. -/
theorem step_next_cases {s t : State} (h : step s = .next t) :
    t = s ∨ ∃ w rest, stepWord w { s with pending := rest } = .next t := by
  have hrun := running_of_step h
  cases hp : s.pending with
  | nil =>
    have hwait : step s = .next s := by simp only [step, stopReason_eq_none.2 hrun, nextWord_nil hp]
    exact .inl (Host.Outcome.next.inj (h.symm.trans hwait))
  | cons w rest => exact .inr ⟨w, rest, (Scope.step_of_presented hrun hp).symm.trans h⟩

/-- Settles O16: a step waits, or runs an operation or refuses a word in a state without marks, and each keeps the
invariant. -/
theorem stepKeepsInvariant : Obligations.StepKeepsInvariant := by
  intro s t hs h
  obtain rfl | ⟨w, rest, hw⟩ := step_next_cases h
  · exact hs
  · have hrun : s.Running := running_of_step h
    exact stepWord_keeps_inv (s := { s with pending := rest }) hrun
      ⟨hs.blink, hs.memory, hs.digits, hs.passes, hs.oneMark⟩ hw

end Sys2Proof.Proofs.Invariant
end

section
/-!
PROOFS of the frames: what TO_BCD, DEC, ENC and the render operations leave unchanged (10_state.md R27, R28, 20_memory.md
R53).
-/

namespace Sys2Proof.Proofs.Frames

open Sys2Proof.Machine Sys2Proof.Spec Sys2Proof.Proofs.HostOperations

/-- Settles O48: TO_BCD latches a byte or faults, by its count, and DEC latches two digits. -/
theorem codecLatchFrame : Obligations.CodecLatchFrame := by
  refine ⟨fun n s t h => ?_, fun f b s t h => ?_⟩
  · by_cases hn : n.toNat ≤ 99
    · obtain ⟨b, hb⟩ := exec_toBcd_le hn
      obtain rfl := Host.Outcome.next.inj ((hb s).symm.trans h)
      simp [Nat.not_lt.2 hn]
    · obtain rfl := Host.Outcome.next.inj ((exec_toBcd_gt (by omega) s).symm.trans h)
      simp [hn]
  · obtain rfl := Host.Outcome.next.inj ((exec_decOf f b s).symm.trans h)
    simp

/-- Settles O49: ENC commits one byte, but ENC.YEAR of a count above 99 only faults. -/
theorem commitFrame : Obligations.CommitFrame := by
  intro f v s t h
  by_cases hv : f ≠ .year ∨ v.toNat ≤ 99
  · obtain ⟨c, b, hcommit⟩ := exec_encOf_commits s.params hv
    obtain rfl := Host.Outcome.next.inj ((hcommit s rfl).symm.trans h)
    have hother : ∀ a, a ≠ (committedTo f).index → (commitByte f c b s).tr.read a = s.tr.read a :=
      fun a ha => Memory.read_write_other s.tr b ha.symm
    have hno : ¬ (f = .year ∧ 99 < v.toNat) := fun ⟨hf, hlt⟩ => hv.elim (· hf) (by omega)
    exact ⟨hother, by simp [hno]⟩
  · obtain ⟨rfl, hgt⟩ : f = .year ∧ 99 < v.toNat := by simpa using hv
    obtain rfl := Host.Outcome.next.inj ((exec_encYear_gt hgt s).symm.trans h)
    simp [hgt]

/-- Settles O51: a render faults, or appends frames and, if it is RENDER, sets the indicator. -/
theorem renderFrame : Obligations.RenderFrame := by
  intro i s t hi h
  obtain ⟨m, rfl⟩ | ⟨fs, ind, hind, rfl⟩ := exec_render_cases hi h
  · simp
  · simpa using hind

end Sys2Proof.Proofs.Frames
end

section
/-!
PROOFS of what the host can observe (10_state.md R35, 43_host.md R200): a host operation does not read the count, and its
answer depends on the flag in the data of the frames it emits alone.
-/

namespace Sys2Proof.Proofs.Observation

open Sys2Proof.Machine Sys2Proof.Spec Sys2Proof.Proofs.HostOperations

/-- The answer of an operation on a state under every blink state: one next state `t`, but for a frame log that depends on
the flag alone, and on it in no address. -/
structure AnswersUnseen (i : Instr) (s t : State) (log : Byte → List Frame) : Prop where
  answer : ∀ c x ws, exec i (unseen c x ws s) = .next (unseen c x ws { t with frames := log x })
  addrs : ∀ x y, (log x).map Frame.addr = (log y).map Frame.addr
  plain : ¬ isRender i → ∀ x y, log x = log y

/-- An operation whose update commutes with changing the blink state answers one log. -/
theorem answersUnseen_of_commutes {i : Instr} {s t : State}
    (h : ∀ c x ws, exec i (unseen c x ws s) = .next (unseen c x ws t)) : AnswersUnseen i s t fun _ => t.frames :=
  ⟨h, fun _ _ => rfl, fun _ _ _ => rfl⟩

/-- A render's log is the one before, with a pass whose addresses are fixed. -/
theorem exec_render_answersUnseen {i : Instr} (hi : isRender i) (s : State) : ∃ t log, AnswersUnseen i s t log := by
  obtain ⟨ind, -, ⟨m, hm⟩ | ⟨ds, hds⟩⟩ := exec_passEnds hi s
  · exact ⟨_, _, answersUnseen_of_commutes (t := raiseFault m s) hm⟩
  · refine ⟨{ s with ind := ind }, fun x => s.frames ++ digitFrames s.params.digitOrder (ds x), hds, ?_, ?_⟩
    · intro x y
      simp only [List.map_append, digitFrames_addr]
    · exact fun hno => absurd hi hno

/-- Every host operation answers alike under every blink state, but for the data of the frames a render emits. -/
theorem exec_answersUnseen {i : Instr} (hi : i ≠ .tick) (s : State) : ∃ t log, AnswersUnseen i s t log := by
  cases hostOperation_of_ne_tick hi with
  | toBcd n =>
    by_cases hn : n.toNat ≤ 99
    · obtain ⟨b, hb⟩ := exec_toBcd_le hn
      exact ⟨_, _, answersUnseen_of_commutes (t := { s with rByte := .holds b }) fun _ _ _ => hb _⟩
    · exact ⟨_, _, answersUnseen_of_commutes (t := raiseFault (.bcdRange n) s) fun _ _ _ =>
        exec_toBcd_gt (by omega) _⟩
  | dec f b =>
    exact ⟨_, _, answersUnseen_of_commutes (t := latchDigits (decodeField f b) s) fun _ _ _ => exec_decOf f b _⟩
  | enc f v =>
    by_cases hv : f ≠ .year ∨ v.toNat ≤ 99
    · obtain ⟨c, b, hcommit⟩ := exec_encOf_commits s.params hv
      exact ⟨_, _, answersUnseen_of_commutes (t := commitByte f c b s) fun _ _ _ => hcommit _ rfl⟩
    · obtain ⟨rfl, hgt⟩ : f = .year ∧ 99 < v.toNat := by simpa using hv
      exact ⟨_, _, answersUnseen_of_commutes (t := raiseFault (.bcdRange v) s) fun _ _ _ => exec_encYear_gt hgt _⟩
  | render hi => exact exec_render_answersUnseen hi s
  | setTr f b => exact ⟨_, _, answersUnseen_of_commutes (t := memWrite f b s) fun _ _ _ => exec_setTrOf f b _⟩
  | setCtl f view mode =>
    exact ⟨_, _, answersUnseen_of_commutes (t := latchControl f view mode s) fun _ _ _ => exec_setCtlOf f view mode _⟩

/-- States with the same parameters that show the host the same rows differ in the count and the words to come alone. -/
theorem eq_unseen_of_rowView {s s' : State} (h : s.rowView = s'.rowView) (hp : s.params = s'.params) :
    s' = unseen s'.bc s.bf s'.pending s := by
  cases s; cases s'
  simp_all [State.rowView, State.hostView, unseen]

/-- Settles O21: the two states differ in what no host operation reads or writes, and have the same flag. -/
theorem hostCannotObserveCount : Obligations.HostCannotObserveCount := by
  intro i s s' t t' hi hview hp h h'
  obtain ⟨r, log, hr⟩ := exec_answersUnseen hi s
  rw [eq_unseen_of_rowView hview hp] at h'
  obtain rfl := Host.Outcome.next.inj ((hr.answer s.bc s.bf s.pending).symm.trans h)
  obtain rfl := Host.Outcome.next.inj ((hr.answer s'.bc s.bf s'.pending).symm.trans h')
  rfl

/-- Settles O53: under two flags a host operation answers the same state but for the frame log, and TICK writes the blink
state alone. -/
theorem flagReachesHostOnlyInFrames : Obligations.FlagReachesHostOnlyInFrames := by
  refine ⟨fun i s x hi => ?_, fun s t h => ?_⟩
  · obtain ⟨r, log, hr⟩ := exec_answersUnseen hi s
    exact ⟨_, _, hr.answer s.bc s.bf s.pending, hr.answer s.bc x s.pending, rfl, hr.addrs x s.bf,
      fun hno => hr.plain hno x s.bf⟩
  · obtain rfl := Host.Outcome.next.inj h
    exact tickCounter_hostView s

end Sys2Proof.Proofs.Observation
end

section
/-!
PROOFS of the memory statements (20_memory.md), the Time Record's part (R50 to R53): reads after writes, the frame of the
host port, which operations write a byte, and that the operations of R60 may be repeated.
-/

namespace Sys2Proof.Proofs.TimeRecord

open Sys2Proof.Machine Sys2Proof.Spec Sys2Proof.Proofs.HostOperations

/-- MemRead looks at its own byte alone. -/
theorem memRead_congr {f : TrField} {s s' : State} (h : s.tr.read f.index = s'.tr.read f.index) :
    memRead f s = memRead f s' := by
  simp only [memRead, h]

/-- MemRead after MemWrite to another field. -/
theorem memRead_memWrite_other {f g : TrField} (h : f ≠ g) (v : Byte) (s : State) :
    memRead g (memWrite f v s) = memRead g s :=
  memRead_congr (Memory.read_write_other s.tr v fun heq => h (index_injective heq))

/-- Settles O44: the four cases of a read, each by its law of the memory. -/
theorem timeRecordReadAfterWrite : Obligations.TimeRecordReadAfterWrite := fun f _ v s =>
  ⟨memRead_eq_ok.2, memRead_eq_ok.2 (Memory.read_write_same s.tr f.index v), fun h => memRead_memWrite_other h v s,
    memRead_unwritten⟩

/-- Settles O50: SET_TR is one MemWrite, and SET_CTL latches the three rows of CTL. -/
theorem hostPortFrame : Obligations.HostPortFrame := by
  refine ⟨fun f b s t h => ?_, fun f view mode s t h => ?_⟩
  · obtain rfl := Host.Outcome.next.inj ((exec_setTrOf f b s).symm.trans h)
    have hother : ∀ a, a ≠ f.index → (memWrite f b s).tr.read a = s.tr.read a :=
      fun a ha => Memory.read_write_other s.tr b ha.symm
    exact ⟨hother, by simp⟩
  · obtain rfl := Host.Outcome.next.inj ((exec_setCtlOf f view mode s).symm.trans h)
    simp

/-! ### Which operations write a byte -/

/-- A byte that changes is the one a SET_TR stores or an ENC commits: the frames of the other families keep every byte. -/
theorem writer_of_changed_byte {i : Instr} {s t : State} {a : Nat} (h : exec i s = .next t)
    (hchange : t.tr.read a ≠ s.tr.read a) :
    (∃ f b, i = .setTrOf f b ∧ a = f.index) ∨ (∃ f v, i = .encOf f v ∧ a = (committedTo f).index) := by
  by_cases hi : i = .tick
  · subst hi
    obtain rfl := Host.Outcome.next.inj h
    exact absurd (by rw [tickCounter_tr]) hchange
  · cases hostOperation_of_ne_tick hi with
    | toBcd n =>
      obtain ⟨hbytes, -⟩ := Frames.codecLatchFrame.1 n s t h
      exact absurd (hbytes a) hchange
    | dec f b =>
      obtain ⟨hbytes, -⟩ := Frames.codecLatchFrame.2 f b s t h
      exact absurd (hbytes a) hchange
    | enc f v =>
      obtain ⟨hothers, -⟩ := Frames.commitFrame f v s t h
      exact .inr ⟨f, v, rfl, not_imp_comm.1 (hothers a) hchange⟩
    | render hi =>
      obtain ⟨hbytes, -⟩ := Frames.renderFrame _ s t hi h
      exact absurd (hbytes a) hchange
    | setTr f b =>
      obtain ⟨hothers, -⟩ := hostPortFrame.1 f b s t h
      exact .inl ⟨f, b, rfl, not_imp_comm.1 (hothers a) hchange⟩
    | setCtl f view mode =>
      obtain ⟨hbytes, -⟩ := hostPortFrame.2 f view mode s t h
      exact absurd (hbytes a) hchange

/-- Settles O45: the fields of SET_TR and ENC, each with its index (10_state.md R21, 40_codec.md R104). -/
theorem onlyTableWritesReachTimeRecord : Obligations.OnlyTableWritesReachTimeRecord := by
  intro i s t a h hchange
  obtain ⟨f, b, rfl, rfl⟩ | ⟨f, v, rfl, rfl⟩ := writer_of_changed_byte h hchange
  · cases f <;> simp [TrField.index, Instr.setTrOf]
  · cases f <;> simp [TrField.index, committedTo, Instr.encOf]

/-! ### Repeating an operation -/

/-- A byte stored again is already there. -/
theorem memWrite_memWrite_same (f : TrField) (v : Byte) (s : State) :
    memWrite f v (memWrite f v s) = memWrite f v s := by
  simp only [memWrite, Memory.write_write_same]

/-- A byte committed again is already there, and so are its latches. -/
theorem commitByte_commitByte_same (f : Field) (c b : Byte) (s : State) :
    commitByte f c b (commitByte f c b s) = commitByte f c b s :=
  memWrite_memWrite_same (committedTo f) b { s with rByte := .holds b, rCnt := .holds c }

/-- An ENC that answered answers the same again: its commit reads the parameters alone, and its fault the count alone. -/
theorem exec_encOf_again {f : Field} {v : Byte} {s t : State} (h : exec (.encOf f v) s = .next t) :
    exec (.encOf f v) t = .next t := by
  by_cases hv : f ≠ .year ∨ v.toNat ≤ 99
  · obtain ⟨c, b, hcommit⟩ := exec_encOf_commits s.params hv
    obtain rfl := Host.Outcome.next.inj ((hcommit s rfl).symm.trans h)
    rw [hcommit _ (commitByte_params f c b s), commitByte_commitByte_same]
  · obtain ⟨rfl, hgt⟩ : f = .year ∧ 99 < v.toNat := by simpa using hv
    obtain rfl := Host.Outcome.next.inj ((exec_encYear_gt hgt s).symm.trans h)
    exact exec_encYear_gt hgt _

/-- A tick moves the count or inverts the flag, so it never leaves the state as it is. -/
theorem tickCounter_ne (s : State) : tickCounter s ≠ s := by
  intro heq
  by_cases hc : s.bc.toNat + 1 ≤ s.params.blinkThreshold.toNat
  · have hcount := tickCounter_count s hc
    rw [heq] at hcount
    omega
  · rw [tickCounter_over s (by omega)] at heq
    exact invertFlag_ne s.bf (congrArg State.bf heq)

/-- Settles O31: the writes of SET_TR, SET_CTL and ENC are already in place, and a tick always changes the blink state. -/
theorem repeatingIsIdempotent : Obligations.RepeatingIsIdempotent := by
  refine ⟨fun i s t hi h => ?_, fun s t _ h => tickCounter_ne t (Host.Outcome.next.inj h)⟩
  obtain ⟨f, b, rfl⟩ | ⟨f, view, mode, rfl⟩ | ⟨f, v, rfl⟩ := hi
  · obtain rfl := Host.Outcome.next.inj ((exec_setTrOf f b s).symm.trans h)
    rw [exec_setTrOf, memWrite_memWrite_same]
  · obtain rfl := Host.Outcome.next.inj ((exec_setCtlOf f view mode s).symm.trans h)
    exact exec_setCtlOf f view mode _
  · exact exec_encOf_again h

end Sys2Proof.Proofs.TimeRecord
end

section
/-!
PROOFS of what a render pass emits (20_memory.md R54, R57, R60) and of what it reads: the parameters, `CTL`, `BF` and every
byte of the Time Record but day_of_week (R53, 42_display.md R161).
-/

namespace Sys2Proof.Proofs.RenderInputs

open Sys2Proof.Machine Sys2Proof.Spec Sys2Proof.Proofs.HostOperations

/-- Settles O39: a pass ends in its fault, or in the six frames of its digits. -/
theorem everyPassEmitsSixFrames : Obligations.EveryPassEmitsSixFrames := by
  intro i s hi
  obtain ⟨ind, -, ⟨m, hm⟩ | ⟨ds, hds⟩⟩ := exec_passEnds hi s
  · exact ⟨_, hm s.bc s.bf s.pending, .inl ⟨m, rfl⟩⟩
  · exact ⟨_, hds s.bc s.bf s.pending, .inr ⟨_, rfl, rfl, digitFrames_addr _ _, digitFrames_data _ _⟩⟩

/-! ### Two states with the same inputs -/

/-- The two states agree in all that a render reads. -/
structure SameInputs (s s' : State) : Prop where
  params : s.params = s'.params
  ctlMode : s.ctlMode = s'.ctlMode
  ctlField : s.ctlField = s'.ctlField
  ctlView : s.ctlView = s'.ctlView
  bf : s.bf = s'.bf
  bytes : ∀ f : TrField, f ≠ .dayOfWeek → s.tr.read f.index = s'.tr.read f.index

/-- The updates a render pass can end in, as functions of the state (`RENDER_*` emits, RENDER also sets `IND`). -/
inductive PassUpdate : (State → State) → Prop where
  | faulted (m : FaultMark) : PassUpdate (raiseFault m)
  | emitted (fs : List Frame) : PassUpdate (emitFrames fs)
  | indicated (fs : List Frame) (v : Bool) : PassUpdate fun s => setIndicator v (emitFrames fs s)

/-- The two attempts settle in one update of their states. -/
def SettleAlike (s s' : State) (r r' : Attempt State) : Prop :=
  ∃ g, PassUpdate g ∧ settle s r = .next (g s) ∧ settle s' r' = .next (g s')

/-- Attempts that raise the same fault settle alike. -/
theorem settleAlike_error (s s' : State) (m : FaultMark) : SettleAlike s s' (.error m) (.error m) :=
  ⟨_, .faulted m, rfl, rfl⟩

/-- The digits of some pairs depend on the bytes of those pairs alone. -/
theorem readDigits_congr (ovl : Option Field) (x : Byte) {s s' : State} {ps : List DigitPair}
    (h : ∀ p ∈ ps, memRead p.field s = memRead p.field s') : readDigits ovl x s ps = readDigits ovl x s' ps := by
  induction ps with
  | nil => rfl
  | cons p rest ih =>
    obtain ⟨hp, hrest⟩ := List.forall_mem_cons.1 h
    simp only [readDigits, hp, ih hrest]

section
variable {s s' : State} (h : SameInputs s s')
include h

/-- A view pass faults alike on both states, or emits the same frames on both. -/
theorem SameInputs.viewFrames_cases (view : View) (ovl : Option Field) (x : Byte) :
    (∃ m, viewFrames view ovl x s = .error m ∧ viewFrames view ovl x s' = .error m) ∨
      (∃ fs, viewFrames view ovl x s = .ok (emitFrames fs s) ∧ viewFrames view ovl x s' = .ok (emitFrames fs s')) := by
  have hds : readDigits ovl x s (viewPairs view) = readDigits ovl x s' (viewPairs view) :=
    readDigits_congr ovl x fun p hp => TimeRecord.memRead_congr (h.bytes p.field (viewPairs_field_ne view hp))
  cases hr : readDigits ovl x s (viewPairs view) with
  | error m =>
    refine .inl ⟨m, ?_⟩
    simp only [viewFrames, ← hds, hr]
    exact ⟨rfl, rfl⟩
  | ok ds =>
    refine .inr ⟨digitFrames s.params.digitOrder ds, viewFrames_of_digits hr, ?_⟩
    rw [h.params]
    exact viewFrames_of_digits (hds ▸ hr)

/-- A view pass alone. -/
theorem SameInputs.viewFrames_settleAlike (view : View) (ovl : Option Field) (x : Byte) :
    SettleAlike s s' (viewFrames view ovl x s) (viewFrames view ovl x s') := by
  obtain ⟨m, hm, hm'⟩ | ⟨fs, hfs, hfs'⟩ := h.viewFrames_cases view ovl x
  · rw [hm, hm']; exact settleAlike_error s s' m
  · rw [hfs, hfs']; exact ⟨_, .emitted fs, rfl, rfl⟩

/-- A view pass that sets the indicator. -/
theorem SameInputs.indicated_settleAlike (view : View) (ovl : Option Field) (x : Byte) (v : Bool) :
    SettleAlike s s' ((viewFrames view ovl x s).map (setIndicator v))
      ((viewFrames view ovl x s').map (setIndicator v)) := by
  obtain ⟨m, hm, hm'⟩ | ⟨fs, hfs, hfs'⟩ := h.viewFrames_cases view ovl x
  · rw [hm, hm']; exact settleAlike_error s s' m
  · rw [hfs, hfs']; exact ⟨_, .indicated fs v, rfl, rfl⟩

/-- RENDER in Run mode, by the order of its reads (42_display.md R169). -/
theorem SameInputs.renderRun_settleAlike (x : Byte) : SettleAlike s s' (renderRun x s) (renderRun x s') := by
  have hv' := h.ctlView
  cases hv : s.ctlView with
  | unwritten =>
    rw [renderRun_view_unwritten hv, renderRun_view_unwritten (hv' ▸ hv)]
    exact settleAlike_error s s' _
  | holds view =>
    have hh' : s.tr.read 2 = s'.tr.read 2 := h.bytes .hour (by decide)
    cases hh : s.tr.read 2 with
    | none =>
      rw [renderRun_hour_unwritten hv hh, renderRun_hour_unwritten (hv' ▸ hv) (hh' ▸ hh)]
      exact settleAlike_error s s' _
    | some b =>
      rw [renderRun_written hv (memRead_eq_ok.2 hh), renderRun_written (hv' ▸ hv) (memRead_eq_ok.2 (hh' ▸ hh)),
        ← h.params]
      exact h.indicated_settleAlike view none x _

/-- RENDER in Set mode, by the order of its reads (42_display.md R170). -/
theorem SameInputs.renderSet_settleAlike (x : Byte) : SettleAlike s s' (renderSet x s) (renderSet x s') := by
  have hf' := h.ctlField
  cases hf : s.ctlField with
  | unwritten =>
    rw [renderSet_field_unwritten hf, renderSet_field_unwritten (hf' ▸ hf)]
    exact settleAlike_error s s' _
  | holds fl =>
    rw [renderSet_written hf, renderSet_written (hf' ▸ hf)]
    exact h.indicated_settleAlike (shownBy fl) (some fl) x _

/-- Every render operation makes the same update of two states with the same inputs. -/
theorem SameInputs.exec_render {i : Instr} (hi : isRender i) :
    ∃ g, PassUpdate g ∧ exec i s = .next (g s) ∧ exec i s' = .next (g s') := by
  obtain rfl | ⟨ovl, rfl | rfl⟩ := hi
  · show ∃ g, PassUpdate g ∧ execRender s = .next (g s) ∧ execRender s' = .next (g s')
    have hm' := h.ctlMode
    cases hm : s.ctlMode with
    | run =>
      rw [execRender_run hm, execRender_run (hm' ▸ hm), ← h.bf]
      exact h.renderRun_settleAlike s.bf
    | set =>
      rw [execRender_set hm, execRender_set (hm' ▸ hm), ← h.bf]
      exact h.renderSet_settleAlike s.bf
  · rw [exec_renderDateOf, exec_renderDateOf, ← h.bf]
    exact h.viewFrames_settleAlike .date ovl s.bf
  · rw [exec_renderTimeOf, exec_renderTimeOf, ← h.bf]
    exact h.viewFrames_settleAlike .time ovl s.bf

end

/-- A pass update appends the same frames to every log; a fault appends none. -/
theorem PassUpdate.appends {g : State → State} (hg : PassUpdate g) : ∃ fs, ∀ s, (g s).frames = s.frames ++ fs := by
  cases hg with
  | faulted m => exact ⟨[], fun s => by simp⟩
  | emitted fs => exact ⟨fs, fun _ => rfl⟩
  | indicated fs v => exact ⟨fs, fun _ => rfl⟩

/-- Settles O40: the states have the same inputs, so the pass makes one update of both. -/
theorem sameInputsSameFrames : Obligations.SameInputsSameFrames := by
  intro i s s' t t' hi hparams hbytes hmode hfield hview hbf ht ht'
  have hsame : SameInputs s s' :=
    ⟨hparams, hmode, hfield, hview, hbf, fun f _ => hbytes f.index⟩
  obtain ⟨g, hg, hs, hs'⟩ := hsame.exec_render hi
  obtain rfl := Host.Outcome.next.inj (hs.symm.trans ht)
  obtain rfl := Host.Outcome.next.inj (hs'.symm.trans ht')
  obtain ⟨fs, hfs⟩ := hg.appends
  exact ⟨fs, hfs s, hfs s'⟩

/-! ### day_of_week -/

/-- The update keeps two states in agreement but for day_of_week. -/
def KeepsAgreement (g : State → State) : Prop := ∀ s s', agreeButDayOfWeek s s' → agreeButDayOfWeek (g s) (g s')

/-- States in agreement give a render the same inputs. -/
theorem sameInputs_of_agree {s s' : State} (h : agreeButDayOfWeek s s') : SameInputs s s' := by
  obtain ⟨hrest, hbytes⟩ := h
  have hindex : ∀ f : TrField, f ≠ .dayOfWeek → f.index ≠ 3 := fun f hf heq => hf (index_injective heq)
  obtain ⟨-, hmode, hfield, hview, -, hbf, -, -, -, -, -, -, -, -, hparams, -⟩ := State.mk.inj hrest
  exact ⟨hparams, hmode, hfield, hview, hbf, fun f hf => hbytes f.index (hindex f hf)⟩

/-- An update that neither reads nor writes the Time Record keeps the agreement. -/
theorem keepsAgreement_of_commutes {g : State → State} (htr : ∀ s, (g s).tr = s.tr)
    (hrest : ∀ s, { g s with tr := [] } = g { s with tr := [] }) : KeepsAgreement g := by
  rintro s s' ⟨heq, hbytes⟩
  refine ⟨by rw [hrest, hrest, heq], fun a ha => ?_⟩
  rw [htr, htr, hbytes a ha]

/-- A write of the same byte to both states keeps the agreement, day_of_week's own byte included. -/
theorem memWrite_keepsAgreement (f : TrField) (v : Byte) : KeepsAgreement (memWrite f v) := by
  rintro s s' ⟨heq, hbytes⟩
  refine ⟨heq, fun a ha => ?_⟩
  simp only [memWrite_tr, Memory.read_write, hbytes a ha]

theorem commitByte_keepsAgreement (f : Field) (c b : Byte) : KeepsAgreement (commitByte f c b) := fun s s' h =>
  have hlatch : KeepsAgreement fun u => { u with rByte := .holds b, rCnt := .holds c } :=
    keepsAgreement_of_commutes (fun _ => rfl) fun _ => rfl
  memWrite_keepsAgreement (committedTo f) b _ _ (hlatch s s' h)

theorem raiseFault_keepsAgreement (m : FaultMark) : KeepsAgreement (raiseFault m) :=
  keepsAgreement_of_commutes (fun _ => rfl) fun _ => rfl

theorem tickCounter_keepsAgreement : KeepsAgreement tickCounter :=
  keepsAgreement_of_commutes tickCounter_tr fun s => by
    unfold tickCounter
    split <;> rfl

theorem PassUpdate.keepsAgreement {g : State → State} (hg : PassUpdate g) : KeepsAgreement g := by
  cases hg with
  | faulted m => exact raiseFault_keepsAgreement m
  | emitted fs => exact keepsAgreement_of_commutes (fun _ => rfl) fun _ => rfl
  | indicated fs v => exact keepsAgreement_of_commutes (fun _ => rfl) fun _ => rfl

/-- Every operation makes one update of two states in agreement, and the update keeps them so. -/
theorem exec_of_agree (i : Instr) {s s' : State} (h : agreeButDayOfWeek s s') :
    ∃ g, KeepsAgreement g ∧ exec i s = .next (g s) ∧ exec i s' = .next (g s') := by
  by_cases hi : i = .tick
  · subst hi
    exact ⟨_, tickCounter_keepsAgreement, rfl, rfl⟩
  · cases hostOperation_of_ne_tick hi with
    | toBcd n =>
      by_cases hn : n.toNat ≤ 99
      · obtain ⟨b, hb⟩ := exec_toBcd_le hn
        exact ⟨_, keepsAgreement_of_commutes (g := fun u => { u with rByte := .holds b }) (fun _ => rfl) fun _ => rfl,
          hb s, hb s'⟩
      · exact ⟨_, raiseFault_keepsAgreement _, exec_toBcd_gt (by omega) s, exec_toBcd_gt (by omega) s'⟩
    | dec f b =>
      exact ⟨_, keepsAgreement_of_commutes (g := latchDigits (decodeField f b)) (fun _ => rfl) fun _ => rfl,
        exec_decOf f b s, exec_decOf f b s'⟩
    | enc f v =>
      by_cases hv : f ≠ .year ∨ v.toNat ≤ 99
      · obtain ⟨c, b, hcommit⟩ := exec_encOf_commits s.params hv
        exact ⟨_, commitByte_keepsAgreement f c b, hcommit s rfl, hcommit s' (sameInputs_of_agree h).params.symm⟩
      · obtain ⟨rfl, hgt⟩ : f = .year ∧ 99 < v.toNat := by simpa using hv
        exact ⟨_, raiseFault_keepsAgreement _, exec_encYear_gt hgt s, exec_encYear_gt hgt s'⟩
    | render hi =>
      obtain ⟨g, hg, hs, hs'⟩ := (sameInputs_of_agree h).exec_render hi
      exact ⟨g, hg.keepsAgreement, hs, hs'⟩
    | setTr f b => exact ⟨_, memWrite_keepsAgreement f b, exec_setTrOf f b s, exec_setTrOf f b s'⟩
    | setCtl f view mode =>
      exact ⟨_, keepsAgreement_of_commutes (g := latchControl f view mode) (fun _ => rfl) fun _ => rfl,
        exec_setCtlOf f view mode s, exec_setCtlOf f view mode s'⟩

/-- Settles O46: no update an operation makes depends on day_of_week, and each keeps the agreement. -/
theorem dayOfWeekIsNeverRead : Obligations.DayOfWeekIsNeverRead := by
  intro i s s' t t' h ht ht'
  obtain ⟨g, hg, hs, hs'⟩ := exec_of_agree i h
  obtain rfl := Host.Outcome.next.inj (hs.symm.trans ht)
  obtain rfl := Host.Outcome.next.inj (hs'.symm.trans ht')
  exact hg s s' h

end Sys2Proof.Proofs.RenderInputs
end

section
/-!
PROOFS of the encoding's statements (30_encoding.md): the fields of a word as quotients and remainders, the words of the
five formats, and the two directions of the round trip between operations and words.
-/

namespace Sys2Proof.Proofs.Encoding

open Sys2Proof.Machine Sys2Proof.Spec Sys2Proof.Proofs.HostOperations

/-! ### The fields of a word (R71, R73) -/

theorem toNat_field (w : Word) (lo len : Nat) : (w.extractLsb' lo len).toNat = w.toNat / 2 ^ lo % 2 ^ len := by
  rw [BitVec.extractLsb'_toNat, Nat.shiftRight_eq_div_pow]

theorem field_eq_zero_iff (w : Word) (lo len : Nat) : w.extractLsb' lo len = 0 ↔ w.toNat / 2 ^ lo % 2 ^ len = 0 := by
  rw [← BitVec.toNat_inj, toNat_field]; rfl

/-- The decoder's opcode is the class that the statements take by division. -/
theorem toNat_opOf (w : Word) : (opOf w).toNat = opClass w := by
  have hw : w.toNat < 65536 := w.isLt
  rw [opOf, toNat_field, opClass]; omega

theorem toNat_imm8Of (w : Word) : (imm8Of w).toNat = w.toNat % 256 := by
  rw [imm8Of, toNat_field]; omega

theorem toNat_selOf (w : Word) : (selOf w).toNat = w.toNat / 256 % 8 := toNat_field w 8 3

/-! ### The names a field can stand for (R73) -/

theorem trFieldOf_eq_some {sel : BitVec 3} {f : TrField} : trFieldOf sel = some f ↔ f.sel = sel := by
  revert sel; cases f <;> decide

theorem trFieldOf_eq_none {sel : BitVec 3} : trFieldOf sel = none ↔ sel.toNat = 7 := by
  revert sel; decide

theorem fieldOf_eq_some {code : BitVec 3} {f : Field} : fieldOf code = some f ↔ f.code = code := by
  revert code; cases f <;> decide

theorem fieldOf_eq_none {code : BitVec 3} : fieldOf code = none ↔ 5 ≤ code.toNat := by
  revert code; decide

theorem viewOf_bit (view : View) : viewOf view.bit = view := by cases view <;> rfl

theorem modeOf_bit (mode : Mode) : modeOf mode.bit = mode := by cases mode <;> rfl

theorem bit_viewOf (b : BitVec 1) : (viewOf b).bit = b := by revert b; decide

theorem bit_modeOf (b : BitVec 1) : (modeOf b).bit = b := by revert b; decide

/-! ### The words of the five formats (R72) -/

theorem toNat_append {m n : Nat} (x : BitVec m) (y : BitVec n) : (x ++ y).toNat = x.toNat * 2 ^ n + y.toNat := by
  rw [BitVec.toNat_append, ← Nat.shiftLeft_add_eq_or_of_lt y.isLt, Nat.shiftLeft_eq]

theorem toNat_wordB (op : Nibble) (n : Byte) : (wordB op n).toNat = 4096 * op.toNat + n.toNat := by
  simp only [wordB, toNat_append, BitVec.toNat_ofNat]; omega

theorem toNat_wordS (op : Nibble) (sel : BitVec 3) (b : Byte) :
    (wordS op sel b).toNat = 4096 * op.toNat + 256 * sel.toNat + b.toNat := by
  simp only [wordS, toNat_append, BitVec.toNat_ofNat]; omega

theorem toNat_wordN (op : Nibble) : (wordN op).toNat = 4096 * op.toNat := by
  simp only [wordN, toNat_append, BitVec.toNat_ofNat]; omega

theorem toNat_wordV_none (op : Nibble) : (wordV op none).toNat = 4096 * op.toNat := by
  simp only [wordV, toNat_append, BitVec.toNat_ofNat]; omega

theorem toNat_wordV_some (op : Nibble) (f : Field) :
    (wordV op (some f)).toNat = 4096 * op.toNat + 8 + f.code.toNat := by
  simp only [wordV, toNat_append, BitVec.toNat_ofNat]; omega

theorem toNat_wordC (op : Nibble) (view : View) (f : Field) (mode : Mode) :
    (wordC op view f mode).toNat = 4096 * op.toNat + 16 * view.bit.toNat + 2 * f.code.toNat + mode.bit.toNat := by
  simp only [wordC, toNat_append, BitVec.toNat_ofNat]; omega

theorem opClass_wordB (op : Nibble) (n : Byte) : opClass (wordB op n) = op.toNat := by
  rw [opClass, toNat_wordB]; omega

theorem opClass_wordS (op : Nibble) (sel : BitVec 3) (b : Byte) : opClass (wordS op sel b) = op.toNat := by
  rw [opClass, toNat_wordS]; omega

theorem opClass_wordN (op : Nibble) : opClass (wordN op) = op.toNat := by
  rw [opClass, toNat_wordN]; omega

theorem opClass_wordV (op : Nibble) (ovl : Option Field) : opClass (wordV op ovl) = op.toNat := by
  rw [opClass]
  cases ovl with
  | none => rw [toNat_wordV_none]; omega
  | some f => rw [toNat_wordV_some]; omega

theorem opClass_wordC (op : Nibble) (view : View) (f : Field) (mode : Mode) :
    opClass (wordC op view f mode) = op.toNat := by
  rw [opClass, toNat_wordC]; omega

/-! ### What each format's decoder reads from a word of its format -/

theorem decodeB_wordB (mk : Byte → Instr) (op : Nibble) (n : Byte) : decodeB mk (wordB op n) = .ok (mk n) := by
  have hzero : (wordB op n).extractLsb' 8 4 = 0 := by
    rw [field_eq_zero_iff, toNat_wordB]; omega
  have himm : imm8Of (wordB op n) = n := by
    rw [← BitVec.toNat_inj, toNat_imm8Of, toNat_wordB]; omega
  rw [decodeB, if_pos hzero, himm]

theorem fields_wordS (op : Nibble) (sel : BitVec 3) (b : Byte) :
    (wordS op sel b).extractLsb' 11 1 = 0 ∧ selOf (wordS op sel b) = sel ∧ imm8Of (wordS op sel b) = b := by
  rw [field_eq_zero_iff, ← BitVec.toNat_inj, ← BitVec.toNat_inj, toNat_selOf, toNat_imm8Of, toNat_wordS]
  omega

theorem decodeSTr_wordS (mk : TrField → Byte → Instr) (op : Nibble) (f : TrField) (b : Byte) :
    decodeSTr mk (wordS op f.sel b) = .ok (mk f b) := by
  obtain ⟨hzero, hsel, himm⟩ := fields_wordS op f.sel b
  rw [decodeSTr, if_pos hzero, hsel, himm, trFieldOf_eq_some.2 rfl]

theorem decodeSField_wordS (mk : Field → Byte → Instr) (op : Nibble) (f : Field) (b : Byte) :
    decodeSField mk (wordS op f.code b) = .ok (mk f b) := by
  obtain ⟨hzero, hsel, himm⟩ := fields_wordS op f.code b
  rw [decodeSField, if_pos hzero, hsel, himm, fieldOf_eq_some.2 rfl]

theorem decodeN_wordN (i : Instr) (op : Nibble) : decodeN i (wordN op) = .ok i := by
  have hzero : (wordN op).extractLsb' 0 12 = 0 := by
    rw [field_eq_zero_iff, toNat_wordN]; omega
  rw [decodeN, if_pos hzero]

theorem decodeV_wordV (mk : Option Field → Instr) (op : Nibble) (ovl : Option Field) :
    decodeV mk (wordV op ovl) = .ok (mk ovl) := by
  cases ovl with
  | none =>
    have hzero : (wordV op none).extractLsb' 4 8 = 0 ∧ (wordV op none).extractLsb' 3 1 = 0 ∧
        (wordV op none).extractLsb' 0 3 = 0 := by
      simp only [field_eq_zero_iff, toNat_wordV_none]; omega
    obtain ⟨hmid, hen, hfld⟩ := hzero
    rw [decodeV, if_pos hmid, if_pos hen, if_pos hfld]
  | some f =>
    have hfields : (wordV op (some f)).extractLsb' 4 8 = 0 ∧ ¬ (wordV op (some f)).extractLsb' 3 1 = 0 ∧
        (wordV op (some f)).extractLsb' 0 3 = f.code := by
      simp only [field_eq_zero_iff, ← BitVec.toNat_inj (y := f.code), toNat_field, toNat_wordV_some]; omega
    obtain ⟨hmid, hen, hfld⟩ := hfields
    rw [decodeV, if_pos hmid, if_neg hen, hfld, fieldOf_eq_some.2 rfl]

theorem decodeC_wordC (mk : Field → View → Mode → Instr) (op : Nibble) (view : View) (f : Field) (mode : Mode) :
    decodeC mk (wordC op view f mode) = .ok (mk f view mode) := by
  have hfields : (wordC op view f mode).extractLsb' 5 7 = 0 ∧ (wordC op view f mode).extractLsb' 1 3 = f.code ∧
      (wordC op view f mode).extractLsb' 4 1 = view.bit ∧ (wordC op view f mode).extractLsb' 0 1 = mode.bit := by
    rw [field_eq_zero_iff]
    simp only [← BitVec.toNat_inj, toNat_field, toNat_wordC]; omega
  obtain ⟨hmid, hfld, hview, hmode⟩ := hfields
  rw [decodeC, if_pos hmid, hfld, fieldOf_eq_some.2 rfl, hview, hmode]
  simp only [viewOf_bit, modeOf_bit]

/-! ### The encoder by family (R74) -/

theorem encode_decOf (f : TrField) (b : Byte) : encode (.decOf f b) = wordS 2 f.sel b := by cases f <;> rfl

theorem encode_encOf (f : Field) (v : Byte) : encode (.encOf f v) = wordS 3 f.code v := by cases f <;> rfl

theorem encode_renderDateOf (ovl : Option Field) : encode (.renderDateOf ovl) = wordV 6 ovl := by
  rcases ovl with _ | f
  · rfl
  · cases f <;> rfl

theorem encode_renderTimeOf (ovl : Option Field) : encode (.renderTimeOf ovl) = wordV 7 ovl := by
  rcases ovl with _ | f
  · rfl
  · cases f <;> rfl

theorem encode_setTrOf (f : TrField) (b : Byte) : encode (.setTrOf f b) = wordS 8 f.sel b := by cases f <;> rfl

theorem encode_setCtlOf (f : Field) (view : View) (mode : Mode) :
    encode (.setCtlOf f view mode) = wordC 9 view f mode := by cases f <;> rfl

/-! ### The decoder by opcode (R76) -/

section
variable {w : Word}

theorem decode_toBcd (h : opClass w = 1) : decode w = decodeB .toBcd w := by simp only [decode, toNat_opOf, h]

theorem decode_dec (h : opClass w = 2) : decode w = decodeSTr .decOf w := by simp only [decode, toNat_opOf, h]

theorem decode_enc (h : opClass w = 3) : decode w = decodeSField .encOf w := by simp only [decode, toNat_opOf, h]

theorem decode_tick (h : opClass w = 4) : decode w = decodeN .tick w := by simp only [decode, toNat_opOf, h]

theorem decode_render (h : opClass w = 5) : decode w = decodeN .render w := by simp only [decode, toNat_opOf, h]

theorem decode_renderDate (h : opClass w = 6) : decode w = decodeV .renderDateOf w := by
  simp only [decode, toNat_opOf, h]

theorem decode_renderTime (h : opClass w = 7) : decode w = decodeV .renderTimeOf w := by
  simp only [decode, toNat_opOf, h]

theorem decode_setTr (h : opClass w = 8) : decode w = decodeSTr .setTrOf w := by simp only [decode, toNat_opOf, h]

theorem decode_setCtl (h : opClass w = 9) : decode w = decodeC .setCtlOf w := by simp only [decode, toNat_opOf, h]

theorem decode_reservedOpcode (h : reservedOpcode w) : decode w = .error .rsvOpcode := by
  rw [reservedOpcode, ← toNat_opOf] at h
  unfold decode
  split
  case h_10 => rfl
  all_goals omega

end

/-! ### From the operation to its word and back -/

/-- Settles O1: each family's word is read by its format's decoder, which gives back the operands. -/
theorem encodeThenDecode : Obligations.EncodeThenDecode := by
  intro i
  by_cases hi : i = .tick
  · subst hi
    exact (decode_tick (opClass_wordN 4)).trans (decodeN_wordN .tick 4)
  · cases hostOperation_of_ne_tick hi with
    | toBcd n => exact (decode_toBcd (opClass_wordB 1 n)).trans (decodeB_wordB .toBcd 1 n)
    | dec f b => rw [encode_decOf, decode_dec (opClass_wordS 2 f.sel b), decodeSTr_wordS]
    | enc f v => rw [encode_encOf, decode_enc (opClass_wordS 3 f.code v), decodeSField_wordS]
    | render hi =>
      obtain rfl | ⟨ovl, rfl | rfl⟩ := hi
      · exact (decode_render (opClass_wordN 5)).trans (decodeN_wordN .render 5)
      · rw [encode_renderDateOf, decode_renderDate (opClass_wordV 6 ovl), decodeV_wordV]
      · rw [encode_renderTimeOf, decode_renderTime (opClass_wordV 7 ovl), decodeV_wordV]
    | setTr f b => rw [encode_setTrOf, decode_setTr (opClass_wordS 8 f.sel b), decodeSTr_wordS]
    | setCtl f view mode => rw [encode_setCtlOf, decode_setCtl (opClass_wordC 9 view f mode), decodeC_wordC]

/-! ### A word with its must-be-zero bits clear is the word of its fields (R72) -/

section
variable {w : Word} {op : Nibble} (hop : opClass w = op.toNat)
include hop

theorem wordB_fields (hzero : w.extractLsb' 8 4 = 0) : wordB op (imm8Of w) = w := by
  rw [field_eq_zero_iff] at hzero
  rw [← BitVec.toNat_inj, toNat_wordB, toNat_imm8Of, ← hop, opClass]; omega

theorem wordS_fields (hzero : w.extractLsb' 11 1 = 0) : wordS op (selOf w) (imm8Of w) = w := by
  rw [field_eq_zero_iff] at hzero
  rw [← BitVec.toNat_inj, toNat_wordS, toNat_selOf, toNat_imm8Of, ← hop, opClass]; omega

theorem wordN_fields (hzero : w.extractLsb' 0 12 = 0) : wordN op = w := by
  rw [field_eq_zero_iff] at hzero
  rw [← BitVec.toNat_inj, toNat_wordN, ← hop, opClass]; omega

theorem wordV_none_fields (hmid : w.extractLsb' 4 8 = 0) (hen : w.extractLsb' 3 1 = 0)
    (hfld : w.extractLsb' 0 3 = 0) : wordV op none = w := by
  rw [field_eq_zero_iff] at hmid hen hfld
  rw [← BitVec.toNat_inj, toNat_wordV_none, ← hop, opClass]; omega

theorem wordV_some_fields {f : Field} (hmid : w.extractLsb' 4 8 = 0) (hen : w.extractLsb' 3 1 ≠ 0)
    (hfld : f.code = w.extractLsb' 0 3) : wordV op (some f) = w := by
  rw [Ne, field_eq_zero_iff] at hen
  rw [field_eq_zero_iff] at hmid
  rw [← BitVec.toNat_inj, toNat_wordV_some, hfld, toNat_field, ← hop, opClass]; omega

theorem wordC_fields {f : Field} (hmid : w.extractLsb' 5 7 = 0) (hfld : f.code = w.extractLsb' 1 3) :
    wordC op (viewOf (w.extractLsb' 4 1)) f (modeOf (w.extractLsb' 0 1)) = w := by
  rw [field_eq_zero_iff] at hmid
  rw [← BitVec.toNat_inj, toNat_wordC, bit_viewOf, bit_modeOf, hfld, ← hop, opClass]
  simp only [toNat_field]; omega

end

/-! ### The four checks of R75, format by format, in terms of the decoder's fields -/

section
variable {w : Word}

theorem not_reservedOpcode (h : 1 ≤ opClass w ∧ opClass w ≤ 9) : ¬ reservedOpcode w := by
  unfold reservedOpcode; omega

theorem reservedBits_formatB (h : opClass w = 1) : reservedBits w ↔ w.extractLsb' 8 4 ≠ 0 := by
  rw [Ne, field_eq_zero_iff, reservedBits]; omega

theorem reservedBits_formatS (h : opClass w = 2 ∨ opClass w = 3 ∨ opClass w = 8) :
    reservedBits w ↔ w.extractLsb' 11 1 ≠ 0 := by
  rw [Ne, field_eq_zero_iff, reservedBits]; omega

theorem reservedBits_formatN (h : opClass w = 4 ∨ opClass w = 5) : reservedBits w ↔ w.extractLsb' 0 12 ≠ 0 := by
  rw [Ne, field_eq_zero_iff, reservedBits]; omega

theorem reservedBits_formatV (h : opClass w = 6 ∨ opClass w = 7) :
    reservedBits w ↔ w.extractLsb' 4 8 ≠ 0 ∨ (w.extractLsb' 3 1 = 0 ∧ w.extractLsb' 0 3 ≠ 0) := by
  simp only [Ne, field_eq_zero_iff, reservedBits]; omega

theorem reservedBits_formatC (h : opClass w = 9) : reservedBits w ↔ w.extractLsb' 5 7 ≠ 0 := by
  rw [Ne, field_eq_zero_iff, reservedBits]; omega

theorem reservedSel_trField (h : opClass w = 2 ∨ opClass w = 8) : reservedSel w ↔ trFieldOf (selOf w) = none := by
  rw [trFieldOf_eq_none, toNat_selOf, reservedSel]; omega

theorem reservedSel_field (h : opClass w = 3) : reservedSel w ↔ fieldOf (selOf w) = none := by
  rw [fieldOf_eq_none, toNat_selOf, reservedSel]; omega

theorem not_reservedSel (h : opClass w ≠ 2 ∧ opClass w ≠ 3 ∧ opClass w ≠ 8) : ¬ reservedSel w := by
  unfold reservedSel; omega

theorem reservedField_formatV (h : opClass w = 6 ∨ opClass w = 7) :
    reservedField w ↔ w.extractLsb' 3 1 ≠ 0 ∧ fieldOf (w.extractLsb' 0 3) = none := by
  rw [Ne, field_eq_zero_iff, fieldOf_eq_none, toNat_field, reservedField]; omega

theorem reservedField_formatC (h : opClass w = 9) : reservedField w ↔ fieldOf (w.extractLsb' 1 3) = none := by
  rw [fieldOf_eq_none, toNat_field, reservedField]; omega

theorem not_reservedField (h : opClass w ≠ 6 ∧ opClass w ≠ 7 ∧ opClass w ≠ 9) : ¬ reservedField w := by
  unfold reservedField; omega

end

/-! ### From the word to its operation, or to the reason it is refused -/

/-- What decoding the word answers: the first check of R75 that applies, or with none of them an operation
that encodes to it. -/
inductive Reading (w : Word) : Except RefusalReason Instr → Prop where
  | opcode (hop : reservedOpcode w) : Reading w (.error .rsvOpcode)
  | bits (hop : ¬ reservedOpcode w) (hbits : reservedBits w) : Reading w (.error .rsvBits)
  | sel (hop : ¬ reservedOpcode w) (hbits : ¬ reservedBits w) (hsel : reservedSel w) : Reading w (.error .rsvSel)
  | field (hop : ¬ reservedOpcode w) (hbits : ¬ reservedBits w) (hsel : ¬ reservedSel w) (hfld : reservedField w) :
    Reading w (.error .rsvField)
  | operation (hop : ¬ reservedOpcode w) (hbits : ¬ reservedBits w) (hsel : ¬ reservedSel w)
    (hfld : ¬ reservedField w) {i : Instr} (hi : encode i = w) : Reading w (.ok i)

section
variable {w : Word} {op : Nibble} (hop : opClass w = op.toNat)
include hop

theorem decodeB_reading {mk : Byte → Instr} (h : opClass w = 1) (hmk : ∀ n, encode (mk n) = wordB op n) :
    Reading w (decodeB mk w) := by
  have hcode := not_reservedOpcode (w := w) (by omega)
  have hbits := reservedBits_formatB h
  unfold decodeB
  split
  next hzero =>
    exact .operation hcode (by simpa [hbits]) (not_reservedSel (by omega)) (not_reservedField (by omega))
      ((hmk _).trans (wordB_fields hop hzero))
  next hne => exact .bits hcode (hbits.2 hne)

theorem decodeN_reading {i : Instr} (h : opClass w = 4 ∨ opClass w = 5) (hi : encode i = wordN op) :
    Reading w (decodeN i w) := by
  have hcode := not_reservedOpcode (w := w) (by omega)
  have hbits := reservedBits_formatN h
  unfold decodeN
  split
  next hzero =>
    exact .operation hcode (by simpa [hbits]) (not_reservedSel (by omega)) (not_reservedField (by omega))
      (hi.trans (wordN_fields hop hzero))
  next hne => exact .bits hcode (hbits.2 hne)

theorem decodeSTr_reading {mk : TrField → Byte → Instr} (h : opClass w = 2 ∨ opClass w = 8)
    (hmk : ∀ f b, encode (mk f b) = wordS op f.sel b) : Reading w (decodeSTr mk w) := by
  have hcode := not_reservedOpcode (w := w) (by omega)
  have hbits := reservedBits_formatS (w := w) (by omega)
  have hsel := reservedSel_trField h
  unfold decodeSTr
  split
  next hzero =>
    have hclear : ¬ reservedBits w := by simpa [hbits]
    cases hf : trFieldOf (selOf w) with
    | none => exact .sel hcode hclear (hsel.2 hf)
    | some f =>
      refine .operation hcode hclear (by simp [hsel, hf]) (not_reservedField (by omega)) ?_
      rw [hmk, trFieldOf_eq_some.1 hf, wordS_fields hop hzero]
  next hne => exact .bits hcode (hbits.2 hne)

theorem decodeSField_reading {mk : Field → Byte → Instr} (h : opClass w = 3)
    (hmk : ∀ f v, encode (mk f v) = wordS op f.code v) : Reading w (decodeSField mk w) := by
  have hcode := not_reservedOpcode (w := w) (by omega)
  have hbits := reservedBits_formatS (w := w) (by omega)
  have hsel := reservedSel_field h
  unfold decodeSField
  split
  next hzero =>
    have hclear : ¬ reservedBits w := by simpa [hbits]
    cases hf : fieldOf (selOf w) with
    | none => exact .sel hcode hclear (hsel.2 hf)
    | some f =>
      refine .operation hcode hclear (by simp [hsel, hf]) (not_reservedField (by omega)) ?_
      rw [hmk, fieldOf_eq_some.1 hf, wordS_fields hop hzero]
  next hne => exact .bits hcode (hbits.2 hne)

theorem decodeV_reading {mk : Option Field → Instr} (h : opClass w = 6 ∨ opClass w = 7)
    (hmk : ∀ ovl, encode (mk ovl) = wordV op ovl) : Reading w (decodeV mk w) := by
  have hcode := not_reservedOpcode (w := w) (by omega)
  have hbits := reservedBits_formatV h
  have hsel := not_reservedSel (w := w) (by omega)
  have hfield := reservedField_formatV h
  unfold decodeV
  split
  next hmid =>
    split
    next hen =>
      split
      next hfld =>
        exact .operation hcode (by rw [hbits]; tauto) hsel (by rw [hfield]; tauto)
          ((hmk none).trans (wordV_none_fields hop hmid hen hfld))
      next hne => exact .bits hcode (hbits.2 (.inr ⟨hen, hne⟩))
    next hen =>
      have hclear : ¬ reservedBits w := by rw [hbits]; tauto
      cases hf : fieldOf (w.extractLsb' 0 3) with
      | none => exact .field hcode hclear hsel (hfield.2 ⟨hen, hf⟩)
      | some f =>
        exact .operation hcode hclear hsel (by simp [hfield, hf])
          ((hmk _).trans (wordV_some_fields hop hmid hen (fieldOf_eq_some.1 hf)))
  next hne => exact .bits hcode (hbits.2 (.inl hne))

theorem decodeC_reading {mk : Field → View → Mode → Instr} (h : opClass w = 9)
    (hmk : ∀ f view mode, encode (mk f view mode) = wordC op view f mode) : Reading w (decodeC mk w) := by
  have hcode := not_reservedOpcode (w := w) (by omega)
  have hbits := reservedBits_formatC h
  have hsel := not_reservedSel (w := w) (by omega)
  have hfield := reservedField_formatC h
  unfold decodeC
  split
  next hmid =>
    have hclear : ¬ reservedBits w := by simpa [hbits]
    cases hf : fieldOf (w.extractLsb' 1 3) with
    | none => exact .field hcode hclear hsel (hfield.2 hf)
    | some f =>
      refine .operation hcode hclear hsel (by simp [hfield, hf]) ?_
      rw [hmk, wordC_fields hop hmid (fieldOf_eq_some.1 hf)]
  next hne => exact .bits hcode (hbits.2 hne)

end

/-- Every word is read in the order of R75: by its opcode, then by its format's checks. -/
theorem decode_reading (w : Word) : Reading w (decode w) := by
  by_cases hcode : reservedOpcode w
  · rw [decode_reservedOpcode hcode]
    exact .opcode hcode
  · obtain h | h | h | h | h | h | h | h | h : opClass w = 1 ∨ opClass w = 2 ∨ opClass w = 3 ∨ opClass w = 4 ∨
        opClass w = 5 ∨ opClass w = 6 ∨ opClass w = 7 ∨ opClass w = 8 ∨ opClass w = 9 := by
      unfold reservedOpcode at hcode; omega
    · rw [decode_toBcd h]
      exact decodeB_reading (op := 1) h h fun _ => rfl
    · rw [decode_dec h]
      exact decodeSTr_reading (op := 2) h (.inl h) encode_decOf
    · rw [decode_enc h]
      exact decodeSField_reading (op := 3) h h encode_encOf
    · rw [decode_tick h]
      exact decodeN_reading (op := 4) h (.inl h) rfl
    · rw [decode_render h]
      exact decodeN_reading (op := 5) h (.inr h) rfl
    · rw [decode_renderDate h]
      exact decodeV_reading (op := 6) h (.inl h) encode_renderDateOf
    · rw [decode_renderTime h]
      exact decodeV_reading (op := 7) h (.inr h) encode_renderTimeOf
    · rw [decode_setTr h]
      exact decodeSTr_reading (op := 8) h (.inr h) encode_setTrOf
    · rw [decode_setCtl h]
      exact decodeC_reading (op := 9) h h encode_setCtlOf

/-- Settles O2: the only readings that answer an operation answer one that encodes to the word. -/
theorem decodedWordIsItsEncoding : Obligations.DecodedWordIsItsEncoding := by
  intro w i hdec
  have hread := decode_reading w
  rw [hdec] at hread
  cases hread with
  | operation _ _ _ _ hi => exact hi

/-- Settles O4: a word's reading carries the checks that do not apply to it, which rule out every clause but its own. -/
theorem reservedWordsRefusedInOrder : Obligations.ReservedWordsRefusedInOrder := by
  intro w
  have hread := decode_reading w
  generalize decode w = answer at hread ⊢
  cases hread with
  | opcode hop => simp [hop]
  | bits hop hbits => simp [hop, hbits]
  | sel hop hbits hsel => simp [hop, hbits, hsel]
  | field hop hbits hsel hfld => simp [hop, hbits, hsel, hfld]
  | operation hop hbits hsel hfld _ => simp [hop, hbits, hsel, hfld]

/-! ### The words of the opcode map -/

/-- A word decodes to an operation exactly when it is the operation's word. -/
theorem decode_eq_ok_iff {w : Word} {i : Instr} : decode w = .ok i ↔ encode i = w :=
  ⟨decodedWordIsItsEncoding w i, fun h => h ▸ encodeThenDecode i⟩

/-- The word of SET_CTL as R74 writes it, `0x9000 | view<<4 | fld<<1 | mode`. -/
theorem encode_setCtlOf_pattern (f : Field) (view : View) (mode : Mode) :
    encode (.setCtlOf f view mode) =
      (0x9000 ||| f.code.setWidth 16 <<< 1) ||| (view.bit.setWidth 16 <<< 4) ||| mode.bit.setWidth 16 := by
  cases f <;> cases view <;> cases mode <;> rfl

/-- Settles O3: each pattern is the word that its operation encodes to. -/
theorem wordPatterns : Obligations.WordPatterns := by
  simp only [Obligations.WordPatterns, decode_eq_ok_iff]
  exact ⟨fun _ => rfl,
    fun _ => ⟨rfl, rfl, rfl, rfl, rfl, rfl, rfl⟩,
    fun _ => ⟨rfl, rfl, rfl, rfl, rfl⟩,
    rfl, rfl,
    rfl, rfl, rfl, rfl, rfl, rfl,
    rfl, rfl, rfl, rfl, rfl, rfl,
    fun _ => ⟨rfl, rfl, rfl, rfl, rfl, rfl, rfl⟩,
    fun view mode => ⟨encode_setCtlOf_pattern .month view mode, encode_setCtlOf_pattern .day view mode,
      encode_setCtlOf_pattern .year view mode, encode_setCtlOf_pattern .hour view mode,
      encode_setCtlOf_pattern .minute view mode⟩⟩

/-- Settles O5: each word is the one that its operation encodes to. -/
theorem wordsOfEachFamily : Obligations.WordsOfEachFamily := by
  simp only [Obligations.WordsOfEachFamily, decode_eq_ok_iff]
  exact ⟨rfl, rfl, rfl, rfl, rfl, rfl, rfl, rfl, rfl⟩

/-! ### The pseudo-operations (R78) -/

/-- A program of one line is the words of the operations the line stands for. -/
theorem assemble_singleton {l : Line} {is : List Instr} (h : Asm.expand l = some is) :
    Asm.assemble [l] = some (is.map encode) := by
  simp [Asm.assemble, h]

theorem fitsByte_toNat (b : Byte) : fitsByte b.toNat = true := decide_eq_true b.isLt

theorem expand_ticks {k : Nat} (hk : 1 ≤ k) : Asm.expand (.ticks k) = some (List.replicate k .tick) :=
  if_pos (decide_eq_true hk)

theorem expand_loadTr (s mi h dw dt mo y : Byte) :
    Asm.expand (.loadTr s.toNat mi.toNat h.toNat dw.toNat dt.toNat mo.toNat y.toNat) =
      some [.setTrSec s, .setTrMin mi, .setTrHour h, .setTrDow dw, .setTrDate dt, .setTrMonth mo, .setTrYear y] := by
  simp [Asm.expand, Line.wellFormed, fitsByte_toNat]

/-- Settles O6: each line is well-formed, and its operations' words are those listed. -/
theorem pseudoOperations : Obligations.PseudoOperations := by
  refine ⟨fun k hk => ?_, fun s mi h dw dt mo y => ?_, ?_⟩
  · rw [assemble_singleton (expand_ticks hk), List.map_replicate]; rfl
  · rw [assemble_singleton (expand_loadTr s mi h dw dt mo y)]; rfl
  · rfl

end Sys2Proof.Proofs.Encoding
end

section
/-!
PROOFS of the BCD codec's statements (40_codec.md R105 to R120): TO_BCD packs quotient and remainder by 10, a decode mask
picks a field of bits, and ENC commits the packed byte of the clamped count.
-/

namespace Sys2Proof.Proofs.Codec

open Sys2Proof.Machine Sys2Proof.Spec Sys2Proof.Proofs.HostOperations

/-! ### TO_BCD -/

theorem toNat_bcdByte {n : Nat} (h : n ≤ 99) : (bcdByte n).toNat = 16 * (n / 10) + n % 10 := by
  rw [bcdByte, BitVec.toNat_ofNat]; omega

/-- The two lanes of a packed byte, tens over units (40_codec.md R119). -/
theorem lanes_eq_bcdByte {n : Nat} (h : n ≤ 99) : BitVec.ofNat 4 (n / 10) ++ BitVec.ofNat 4 (n % 10) = bcdByte n := by
  apply BitVec.eq_of_toNat_eq
  rw [Encoding.toNat_append, toNat_bcdByte h, BitVec.toNat_ofNat, BitVec.toNat_ofNat]
  omega

theorem toBcd_eq_bcdByte {n : Byte} (h : n.toNat ≤ 99) : toBcd n = .ok (bcdByte n.toNat) := by
  rw [toBcd_le n h, lanes_eq_bcdByte h]

theorem exec_toBcd_packs {n : Byte} (h : n.toNat ≤ 99) (s : State) :
    exec (.toBcd n) s = .next { s with rByte := .holds (bcdByte n.toNat) } := by
  show settle s (toBcd n >>= fun b => pure { s with rByte := .holds b }) = _
  rw [toBcd_eq_bcdByte h]; rfl

/-- Settles O23: to_bcd packs a count of at most 99 and faults above. -/
theorem toBcdPacksCount : Obligations.ToBcdPacksCount := fun _ s =>
  ⟨Encoding.decode_eq_ok_iff.2 rfl, fun h => exec_toBcd_packs h s, fun h => exec_toBcd_gt h s⟩

/-! ### DEC -/

/-- A tens mask of the low `k` bits of the high nibble extracts those bits (40_codec.md R101). -/
theorem dec_tens {tm : Byte} (k : Nat) (htm : ∀ i < 4, tm.getLsbD (4 + i) = decide (i < k)) (b um : Byte) :
    (dec b tm um).1 = (b.extractLsb' 4 k).setWidth 4 := by
  ext i hi
  simp [dec, htm i hi, Bool.and_comm]

/-- A units mask of the low `k` bits extracts those bits (40_codec.md R101). -/
theorem dec_units {um : Byte} (k : Nat) (hum : ∀ i < 4, um.getLsbD i = decide (i < k)) (b tm : Byte) :
    (dec b tm um).2 = (b.extractLsb' 0 k).setWidth 4 := by
  ext i hi
  simp [dec, hum i hi, Bool.and_comm]

theorem tensMask_hour_twelve {b : Byte} (h : b.getLsbD 6 = true) : tensMask .hour b = 0x10 := if_pos h

theorem tensMask_hour_twentyFour {b : Byte} (h : b.getLsbD 6 = false) : tensMask .hour b = 0x30 :=
  if_neg (Bool.eq_false_iff.1 h)

theorem tensOf_hour_twelve {b : Byte} (h : b.getLsbD 6 = true) : tensOf .hour b = (b.extractLsb' 4 1).setWidth 4 :=
  if_pos h

theorem tensOf_hour_twentyFour {b : Byte} (h : b.getLsbD 6 = false) :
    tensOf .hour b = (b.extractLsb' 4 2).setWidth 4 :=
  if_neg (Bool.eq_false_iff.1 h)

/-- Each field's tens mask covers the bits of its layout (40_codec.md R102, 10_state.md R22). -/
theorem decodeField_tens (f : TrField) (b : Byte) : (decodeField f b).1 = tensOf f b := by
  cases f with
  | second => exact dec_tens (tm := 0x70) 3 (by decide) b _
  | minute => exact dec_tens (tm := 0x70) 3 (by decide) b _
  | hour =>
    cases h : b.getLsbD 6 with
    | true =>
      rw [decodeField, tensMask_hour_twelve h, tensOf_hour_twelve h]
      exact dec_tens 1 (by decide) b _
    | false =>
      rw [decodeField, tensMask_hour_twentyFour h, tensOf_hour_twentyFour h]
      exact dec_tens 2 (by decide) b _
  | dayOfWeek => exact (dec_tens (tm := 0x00) 0 (by decide) b _).trans (by simp [tensOf])
  | date => exact dec_tens (tm := 0x30) 2 (by decide) b _
  | month => exact dec_tens (tm := 0x10) 1 (by decide) b _
  | year => exact (dec_tens (tm := 0xF0) 4 (by decide) b _).trans (BitVec.setWidth_eq _)

/-- Each field's units mask covers the bits of its layout (40_codec.md R102, 10_state.md R22). -/
theorem decodeField_units (f : TrField) (b : Byte) : (decodeField f b).2 = unitsOf f b := by
  have hnibble : ∀ tm, (dec b tm 0x0F).2 = b.extractLsb' 0 4 := fun tm =>
    (dec_units 4 (by decide) b tm).trans (BitVec.setWidth_eq _)
  cases f with
  | dayOfWeek => exact dec_units (um := 0x07) 3 (by decide) b _
  | _ => exact hnibble _

theorem decodeField_eq (f : TrField) (b : Byte) : decodeField f b = (tensOf f b, unitsOf f b) :=
  Prod.ext (decodeField_tens f b) (decodeField_units f b)

/-- DEC latches the digits of its field's layout. -/
theorem exec_decOf_digits (f : TrField) (b : Byte) (s : State) :
    exec (.decOf f b) s = .next { s with rTens := .holds (tensOf f b), rUnits := .holds (unitsOf f b) } := by
  rw [exec_decOf, decodeField_eq]; rfl

/-- Settles O24: each operation is its field's DEC. -/
theorem decodeLatchesDigits : Obligations.DecodeLatchesDigits := by
  intro b s
  simp only [Encoding.decode_eq_ok_iff]
  exact ⟨rfl, rfl, rfl, rfl, rfl, rfl,
    exec_decOf_digits .second b s, exec_decOf_digits .minute b s, exec_decOf_digits .dayOfWeek b s,
    exec_decOf_digits .date b s, exec_decOf_digits .month b s, exec_decOf_digits .year b s⟩

/-- Settles O25: the tens of an hour, by its mode bit. -/
theorem decodeHourByItsModeBit : Obligations.DecodeHourByItsModeBit := by
  refine fun b s => ⟨Encoding.decode_eq_ok_iff.2 rfl, fun h => ?_, fun h => ?_⟩
  · rw [← tensOf_hour_twelve h]; exact exec_decOf_digits .hour b s
  · rw [← tensOf_hour_twentyFour h]; exact exec_decOf_digits .hour b s

/-! ### A field of bits as a digit -/

theorem digit_eq_ofNat (b : Byte) (lo k : Nat) :
    (b.extractLsb' lo k).setWidth 4 = BitVec.ofNat 4 (b.toNat / 2 ^ lo % 2 ^ k) := by
  apply BitVec.eq_of_toNat_eq
  simp [Nat.shiftRight_eq_div_pow]

theorem unitsOf_eq_ofNat {f : TrField} (hf : f ≠ .dayOfWeek) (b : Byte) :
    unitsOf f b = BitVec.ofNat 4 (b.toNat % 16) := by
  have h := digit_eq_ofNat b 0 4
  rw [BitVec.setWidth_eq] at h
  simp only [Nat.pow_zero, Nat.div_one] at h
  cases f with
  | dayOfWeek => exact absurd rfl hf
  | _ => exact h

/-! ### The round trip -/

/-- The tens of a packed count fill the bits of any layout they fit in. -/
theorem tens_bcdByte {n k : Nat} (hn : n ≤ 99) (hk : n / 10 < 2 ^ k) :
    ((bcdByte n).extractLsb' 4 k).setWidth 4 = BitVec.ofNat 4 (n / 10) := by
  have htens : (16 * (n / 10) + n % 10) / 2 ^ 4 = n / 10 := by omega
  rw [digit_eq_ofNat, toNat_bcdByte hn, htens, Nat.mod_eq_of_lt hk]

theorem units_bcdByte {n : Nat} (hn : n ≤ 99) {f : TrField} (hf : f ≠ .dayOfWeek) :
    unitsOf f (bcdByte n) = BitVec.ofNat 4 (n % 10) := by
  have hunits : (16 * (n / 10) + n % 10) % 16 = n % 10 := by omega
  rw [unitsOf_eq_ofNat hf, toNat_bcdByte hn, hunits]

theorem bcdByte_mono {n m : Nat} (hnm : n ≤ m) (hm : m ≤ 99) : (bcdByte n).toNat ≤ (bcdByte m).toNat := by
  rw [toNat_bcdByte (hnm.trans hm), toNat_bcdByte hm]; omega

/-- A DEC whose layout holds the tens of a packed count latches the count's digits. -/
theorem exec_decOf_bcdByte {f : TrField} {n : Nat} (hn : n ≤ 99) (hf : f ≠ .dayOfWeek)
    (htens : tensOf f (bcdByte n) = BitVec.ofNat 4 (n / 10)) (s : State) :
    exec (.decOf f (bcdByte n)) s =
      .next { s with rTens := .holds (BitVec.ofNat 4 (n / 10)), rUnits := .holds (BitVec.ofNat 4 (n % 10)) } := by
  rw [exec_decOf_digits, htens, units_bcdByte hn hf]

/-- Settles O29: the year's layout holds the tens of every packed count, that of seconds and minutes those up to 59. -/
theorem codecRoundTrip : Obligations.CodecRoundTrip := by
  refine ⟨fun n s hn => ?_, fun n n' s hle hn' => ?_⟩
  · refine ⟨_, _, exec_toBcd_packs hn s, rfl, ?_, fun h59 => ?_⟩
    · have htens : tensOf .year (bcdByte n.toNat) = BitVec.ofNat 4 (n.toNat / 10) :=
        (BitVec.setWidth_eq _).symm.trans (tens_bcdByte (k := 4) hn (by omega))
      exact exec_decOf_bcdByte hn (by decide) htens _
    · have htens : tensOf .second (bcdByte n.toNat) = BitVec.ofNat 4 (n.toNat / 10) := tens_bcdByte hn (by omega)
      exact ⟨exec_decOf_bcdByte (f := .second) hn (by decide) htens _,
        exec_decOf_bcdByte (f := .minute) hn (by decide) htens _⟩
  · exact ⟨_, _, _, _, exec_toBcd_packs (hle.trans hn') s, exec_toBcd_packs hn' s, rfl, rfl, bcdByte_mono hle hn'⟩

end Sys2Proof.Proofs.Codec
end

section
/-!
PROOFS of what ENC commits (40_codec.md R113 to R117, R120) and of what RENDER then shows (70_reset_and_hazards.md R259): one
equation for all five operations, and the committed byte as a number, from which its range and its digits follow.
-/

namespace Sys2Proof.Proofs.Commit

open Sys2Proof.Machine Sys2Proof.Spec Sys2Proof.Proofs.HostOperations Sys2Proof.Proofs.Codec

/-! ### The byte of a commit -/

/-- The count after its clamp (40_codec.md R104); the year's, which has none, is that of a count to_bcd takes. -/
def clampedCount (f : Field) (v : Byte) : Nat := min v.toNat (maxCount f)

/-- The count of an hour that is packed (40_codec.md R116). -/
def hourForm (p : Params) (v : Byte) : Nat :=
  if p.hourPmSubtract = true ∧ 12 < clampedCount .hour v then clampedCount .hour v - 12 else clampedCount .hour v

/-- The byte ENC commits (40_codec.md R113 to R117). -/
def committedByte (p : Params) (f : Field) (v : Byte) : Byte :=
  match f with
  | .month => bcdByte (clampedCount .month v) &&& 0x1F
  | .day => bcdByte (clampedCount .day v) &&& 0x3F
  | .year => bcdByte (clampedCount .year v)
  | .hour => bcdByte (hourForm p v) ||| 0x40 ||| (if 12 < clampedCount .hour v then 0x20 else 0x00)
  | .minute => bcdByte (clampedCount .minute v) &&& 0x7F

theorem clampedCount_le (f : Field) (v : Byte) : clampedCount f v ≤ maxCount f := Nat.min_le_right _ _

theorem maxCount_le (f : Field) : maxCount f ≤ 99 := by cases f <;> decide

theorem clampedCount_pos {f : Field} {v : Byte} (h : 0 < v.toNat) : 1 ≤ clampedCount f v := by
  have hmax : 1 ≤ maxCount f := by cases f <;> decide
  exact le_min h hmax

/-! ### One equation for ENC -/

theorem commitMasked_packs (f : Field) {c : Byte} (mask : Byte) (s : State) (h : c.toNat ≤ 99) :
    settle s (commitMasked f c mask s) = .next (commitByte f c (bcdByte c.toNat &&& mask) s) := by
  rw [commitMasked_le f c mask s h, lanes_eq_bcdByte h]; rfl

/-- The clamp of a field, as the byte of its clamped count. -/
theorem clamp_eq {f : Field} {max : Byte} (v : Byte) (h : max.toNat = maxCount f) :
    clamp v max = BitVec.ofNat 8 (clampedCount f v) := by
  apply BitVec.eq_of_toNat_eq
  rw [clamp_toNat, h, BitVec.toNat_ofNat, Nat.mod_eq_of_lt]
  · rfl
  · exact lt_of_le_of_lt (Nat.min_le_left _ _) v.isLt

theorem toNat_clampedCount (f : Field) (v : Byte) : (BitVec.ofNat 8 (clampedCount f v)).toNat = clampedCount f v := by
  have hle := clampedCount_le f v
  have hmax := maxCount_le f
  rw [BitVec.toNat_ofNat]; omega

/-- A masked commit of the clamped count. -/
theorem commitMasked_clampedCount (f : Field) (v mask : Byte) (s : State) :
    settle s (commitMasked f (BitVec.ofNat 8 (clampedCount f v)) mask s) =
      .next (commitByte f (BitVec.ofNat 8 (clampedCount f v)) (bcdByte (clampedCount f v) &&& mask) s) := by
  have hle : clampedCount f v ≤ 99 := (clampedCount_le f v).trans (maxCount_le f)
  rw [commitMasked_packs f mask s (by rwa [toNat_clampedCount]), toNat_clampedCount]

theorem toNat_hourCount (sub : Bool) (c : Byte) :
    (hourCount sub c).toNat = if sub = true ∧ 12 < c.toNat then c.toNat - 12 else c.toNat := by
  by_cases h : sub = true ∧ 12 < c.toNat
  · obtain ⟨hsub, hc⟩ := h
    have hle : (12 : Byte) ≤ c := by rw [BitVec.le_def]; exact hc.le
    rw [if_pos ⟨hsub, hc⟩, hourCount, if_pos (by simp [hsub, hc]), BitVec.toNat_sub_of_le hle]; rfl
  · rw [if_neg h, hourCount, if_neg (by simpa using h)]

theorem commitHour_clampedCount (v : Byte) (s : State) :
    settle s (commitHour (BitVec.ofNat 8 (clampedCount .hour v)) s) =
      .next (commitByte .hour (BitVec.ofNat 8 (clampedCount .hour v)) (committedByte s.params .hour v) s) := by
  have hc := toNat_clampedCount .hour v
  have hle : (BitVec.ofNat 8 (clampedCount .hour v)).toNat ≤ 23 := hc.le.trans (clampedCount_le .hour v)
  have hform : (hourCount s.params.hourPmSubtract (BitVec.ofNat 8 (clampedCount .hour v))).toNat =
      hourForm s.params v := by
    rw [toNat_hourCount, hc, hourForm]
  have hform99 : hourForm s.params v ≤ 99 := by
    rw [← hform]; exact (hourCount_le _ _).trans (hle.trans (by decide))
  rw [commitHour_le _ s hle, hform, lanes_eq_bcdByte hform99, pmBit, hc]; rfl

/-- ENC commits its byte, but for ENC.YEAR of a count above 99. -/
theorem exec_encOf_committedByte {f : Field} {v : Byte} (h : f = .year → v.toNat ≤ 99) (s : State) :
    exec (.encOf f v) s =
      .next (commitByte f (BitVec.ofNat 8 (clampedCount f v)) (committedByte s.params f v) s) := by
  cases f with
  | month =>
    show settle s (commitMasked .month (clamp v 12) monthMask s) = _
    rw [clamp_eq (f := .month) v rfl]; exact commitMasked_clampedCount .month v _ s
  | day =>
    show settle s (commitMasked .day (clamp v 31) dateMask s) = _
    rw [clamp_eq (f := .day) v rfl]; exact commitMasked_clampedCount .day v _ s
  | year =>
    have hv : v = BitVec.ofNat 8 (clampedCount .year v) := by
      rw [clampedCount, maxCount, Nat.min_eq_left (h rfl), BitVec.ofNat_toNat, BitVec.setWidth_eq]
    have hmask : ∀ b : Byte, b &&& yearMask = b := fun _ => BitVec.and_allOnes
    show settle s (commitMasked .year v yearMask s) = _
    conv_lhs => rw [hv]
    rw [commitMasked_clampedCount, hmask]; rfl
  | hour =>
    show settle s (commitHour (clamp v 23) s) = _
    rw [clamp_eq (f := .hour) v rfl]; exact commitHour_clampedCount v s
  | minute =>
    show settle s (commitMasked .minute (clamp v 59) minuteMask s) = _
    rw [clamp_eq (f := .minute) v rfl]; exact commitMasked_clampedCount .minute v _ s

/-- Settles O26: the commits of the three fields. -/
theorem encodeClampsAndCommits : Obligations.EncodeClampsAndCommits := by
  intro v s
  simp only [Encoding.decode_eq_ok_iff]
  exact ⟨rfl, rfl, rfl, exec_encOf_committedByte (f := .month) (by simp) s,
    exec_encOf_committedByte (f := .day) (by simp) s, exec_encOf_committedByte (f := .minute) (by simp) s⟩

/-- Settles O27: up to 99 the year's clamped count is the count itself. -/
theorem encodeYearCommitsOrFaults : Obligations.EncodeYearCommitsOrFaults := by
  refine fun v s => ⟨Encoding.decode_eq_ok_iff.2 rfl, fun h => ?_, fun h => exec_encYear_gt h s⟩
  have hc : clampedCount .year v = v.toNat := Nat.min_eq_left h
  have hexec := exec_encOf_committedByte (f := .year) (fun _ => h) s
  rw [committedByte, hc, BitVec.ofNat_toNat, BitVec.setWidth_eq] at hexec
  exact hexec

/-- Settles O28: the commit of the hour. -/
theorem encodeHourTwelveHourForm : Obligations.EncodeHourTwelveHourForm := fun _ s =>
  ⟨Encoding.decode_eq_ok_iff.2 rfl, exec_encOf_committedByte (f := .hour) (by simp) s⟩

/-! ### The committed byte as a number -/

/-- A mask of the low `k` bits keeps a byte below `2 ^ k`. -/
theorem and_lowMask {b mask : Byte} (k : Nat) (hmask : mask.toNat = 2 ^ k - 1) (hb : b.toNat < 2 ^ k) : b &&& mask = b := by
  apply BitVec.eq_of_toNat_eq
  rw [BitVec.toNat_and, hmask, Nat.and_two_pow_sub_one_of_lt_two_pow hb]

/-- Off the hour the masks change nothing (40_codec.md R103). -/
theorem committedByte_eq_bcdByte (p : Params) {f : Field} (hf : f ≠ .hour) (v : Byte) :
    committedByte p f v = bcdByte (clampedCount f v) := by
  have hle := clampedCount_le f v
  have hb := toNat_bcdByte (hle.trans (maxCount_le f))
  cases f with
  | month => exact and_lowMask 5 rfl (by rw [hb]; simp only [maxCount] at hle; omega)
  | day => exact and_lowMask 6 rfl (by rw [hb]; simp only [maxCount] at hle; omega)
  | year => rfl
  | hour => exact absurd rfl hf
  | minute => exact and_lowMask 7 rfl (by rw [hb]; simp only [maxCount] at hle; omega)

theorem toNat_committedByte (p : Params) {f : Field} (hf : f ≠ .hour) (v : Byte) :
    (committedByte p f v).toNat = 16 * (clampedCount f v / 10) + clampedCount f v % 10 := by
  rw [committedByte_eq_bcdByte p hf v, toNat_bcdByte ((clampedCount_le f v).trans (maxCount_le f))]

/-- The hour packed is the clamped count, or 12 less than it when it is above 12 (40_codec.md R116). -/
theorem hourForm_cases (p : Params) (v : Byte) :
    hourForm p v = clampedCount .hour v ∨
      (12 < clampedCount .hour v ∧ hourForm p v = clampedCount .hour v - 12) := by
  by_cases h : p.hourPmSubtract = true ∧ 12 < clampedCount .hour v
  · exact .inr ⟨h.2, if_pos h⟩
  · exact .inl (if_neg h)

/-- The parts of the hour byte of each of the 24 counts, subtracted or as written: bit 6 is set, bit 5 is PM, and below them
stands the packed hour, whose own bit 5 can only be set with PM (40_codec.md R116). -/
theorem hourByte_parts : ∀ c < 24, ∀ h < 24, (h = c ∨ (12 < c ∧ h = c - 12)) →
    (bcdByte h ||| 0x40 ||| (if 12 < c then 0x20 else 0x00)).toNat / 64 = 1 ∧
      ((bcdByte h ||| 0x40 ||| (if 12 < c then 0x20 else 0x00)).toNat / 32 % 2 = 1 ↔ 12 < c) ∧
      (bcdByte h ||| 0x40 ||| (if 12 < c then 0x20 else 0x00)).toNat % 32 = 16 * (h / 10 % 2) + h % 10 := by
  decide

theorem committedByte_hour_parts (p : Params) (v : Byte) :
    (committedByte p .hour v).toNat / 64 = 1 ∧
      ((committedByte p .hour v).toNat / 32 % 2 = 1 ↔ 12 < clampedCount .hour v) ∧
      (committedByte p .hour v).toNat % 32 = 16 * (hourForm p v / 10 % 2) + hourForm p v % 10 := by
  have hc : clampedCount .hour v ≤ 23 := clampedCount_le .hour v
  have hform := hourForm_cases p v
  exact hourByte_parts _ (by omega) _ (by omega) hform

/-! ### Its range -/

/-- Off the hour a byte is compliant by the range of its clamped count (40_codec.md R120). -/
theorem committedByte_compliant_of_ne_hour (p : Params) {f : Field} (hf : f ≠ .hour) (v : Byte) :
    compliant p f v (committedByte p f v) := by
  have hle := clampedCount_le f v
  have hpos : 0 < v.toNat → 1 ≤ clampedCount f v := clampedCount_pos
  cases f with
  | hour => exact absurd rfl hf
  | _ =>
    simp only [compliant, toNat_committedByte p hf v]
    simp only [maxCount] at hle
    omega

/-- An hour is compliant by its two bits and, when PM is subtracted, the range of its 12-hour form (40_codec.md R120). -/
theorem committedByte_compliant_hour (p : Params) (v : Byte) : compliant p .hour v (committedByte p .hour v) := by
  have hle : clampedCount .hour v ≤ 23 := clampedCount_le .hour v
  have hpos : 0 < v.toNat → 1 ≤ clampedCount .hour v := clampedCount_pos
  have hform := hourForm_cases p v
  have hsub : p.hourPmSubtract = true → hourForm p v ≤ 12 := by
    intro hp
    simp only [hourForm, hp, true_and]
    split <;> omega
  obtain ⟨hmode, hpm, hlow⟩ := committedByte_hour_parts p v
  simp only [compliant, hlow]
  refine ⟨by omega, hmode, by omega, hpm, fun hp => ?_⟩
  have h12 := hsub hp
  omega

/-- Settles O30: an ENC that does not fault commits its byte, which is compliant. -/
theorem committedBytesComply : Obligations.CommittedBytesComply := by
  intro f v s t _ hexec hfault
  have hv : f = .year → v.toNat ≤ 99 := by
    rintro rfl
    by_contra hgt
    obtain rfl := Host.Outcome.next.inj ((exec_encYear_gt (by omega) s).symm.trans hexec)
    exact absurd hfault (by simp)
  obtain rfl := Host.Outcome.next.inj ((exec_encOf_committedByte hv s).symm.trans hexec)
  refine ⟨_, Memory.read_write_same _ _ _, rfl, ?_⟩
  by_cases hf : f = .hour
  · subst hf; exact committedByte_compliant_hour s.params v
  · exact committedByte_compliant_of_ne_hour s.params hf v

/-! ### Its digits -/

/-- The count whose digits a commit shows: of an hour, that of its 12-hour form (40_codec.md R116). -/
def shownCount (p : Params) (f : Field) (v : Byte) : Nat :=
  if f = .hour ∧ p.hourPmSubtract = true ∧ 12 < clampedCount f v then clampedCount f v - 12 else clampedCount f v

/-- The tens digit a commit shows: of an hour, one bit (40_codec.md R102). -/
def shownTens (p : Params) (f : Field) (v : Byte) : Nat :=
  if f = .hour then shownCount p f v / 10 % 2 else shownCount p f v / 10

theorem shownCount_hour (p : Params) (v : Byte) : shownCount p .hour v = hourForm p v := by
  simp only [shownCount, hourForm, true_and]

theorem shownCount_of_ne_hour (p : Params) {f : Field} (hf : f ≠ .hour) (v : Byte) :
    shownCount p f v = clampedCount f v :=
  if_neg fun h => hf h.1

theorem committedByte_mod_16 (p : Params) (f : Field) (v : Byte) :
    (committedByte p f v).toNat % 16 = shownCount p f v % 10 := by
  by_cases hf : f = .hour
  · subst hf
    obtain ⟨-, -, hlow⟩ := committedByte_hour_parts p v
    rw [shownCount_hour]; omega
  · rw [toNat_committedByte p hf v, shownCount_of_ne_hour p hf v]; omega

theorem unitsOf_committedByte (p : Params) (f : Field) (v : Byte) :
    unitsOf (committedTo f) (committedByte p f v) = BitVec.ofNat 4 (shownCount p f v % 10) := by
  rw [unitsOf_eq_ofNat (by cases f <;> decide), committedByte_mod_16]

/-- Off the hour the tens of the clamped count fit the bits of the field's layout. -/
theorem tensOf_committedByte_of_ne_hour (p : Params) {f : Field} (hf : f ≠ .hour) (v : Byte) :
    tensOf (committedTo f) (committedByte p f v) = BitVec.ofNat 4 (clampedCount f v / 10) := by
  have hle := clampedCount_le f v
  have h99 : clampedCount f v ≤ 99 := hle.trans (maxCount_le f)
  rw [committedByte_eq_bcdByte p hf v]
  cases f with
  | month => exact tens_bcdByte (k := 1) h99 (by simp only [maxCount] at hle; omega)
  | day => exact tens_bcdByte (k := 2) h99 (by simp only [maxCount] at hle; omega)
  | year => exact (BitVec.setWidth_eq _).symm.trans (tens_bcdByte (k := 4) h99 (by omega))
  | hour => exact absurd rfl hf
  | minute => exact tens_bcdByte (k := 3) h99 (by simp only [maxCount] at hle; omega)

theorem committedByte_hour_bit6 (p : Params) (v : Byte) : (committedByte p .hour v).getLsbD 6 = true := by
  simp [committedByte]

/-- An hour is always committed in 12-hour mode, so its tens are bit 4 alone. -/
theorem tensOf_committedByte_hour (p : Params) (v : Byte) :
    tensOf .hour (committedByte p .hour v) = BitVec.ofNat 4 (hourForm p v / 10 % 2) := by
  have hbit4 : (committedByte p .hour v).toNat / 2 ^ 4 % 2 ^ 1 = hourForm p v / 10 % 2 := by
    obtain ⟨-, -, hlow⟩ := committedByte_hour_parts p v
    omega
  rw [tensOf_hour_twelve (committedByte_hour_bit6 p v), digit_eq_ofNat, hbit4]

theorem tensOf_committedByte (p : Params) (f : Field) (v : Byte) :
    tensOf (committedTo f) (committedByte p f v) = BitVec.ofNat 4 (shownTens p f v) := by
  by_cases hf : f = .hour
  · subst hf
    rw [shownTens, if_pos rfl, shownCount_hour]
    exact tensOf_committedByte_hour p v
  · rw [shownTens, if_neg hf, shownCount_of_ne_hour p hf v]
    exact tensOf_committedByte_of_ne_hour p hf v

/-! ### The pass that shows it -/

/-- The byte of a field, 0x00 where it is unwritten. -/
def byteAt (s : State) (f : TrField) : Byte := (s.tr.read f.index).getD 0x00

/-- The digits of some pairs, without an overlay. -/
def plainDigits (s : State) (ps : List DigitPair) : List Nibble :=
  ps.flatMap fun p => [tensOf p.field (byteAt s p.field), unitsOf p.field (byteAt s p.field)]

theorem memRead_byteAt {s : State} {f : TrField} (h : s.tr.read f.index ≠ none) : memRead f s = .ok (byteAt s f) := by
  obtain ⟨b, hb⟩ := Option.ne_none_iff_exists'.1 h
  rw [memRead_eq_ok, byteAt, hb]; rfl

/-- A clear flag overlays nothing (42_display.md R163). -/
theorem overlayNibble_clear (d : Nibble) : overlayNibble 0x00 d = d := BitVec.or_zero

theorem pairDigits_clear (ovl : Option Field) (p : DigitPair) (b : Byte) :
    pairDigits ovl 0x00 p b = [tensOf p.field b, unitsOf p.field b] := by
  simp only [pairDigits, overlayNibble_clear, decodeField_eq, ite_self]

theorem readDigits_clear (ovl : Option Field) {s : State} {ps : List DigitPair}
    (h : ∀ p ∈ ps, s.tr.read p.field.index ≠ none) : readDigits ovl 0x00 s ps = .ok (plainDigits s ps) := by
  induction ps with
  | nil => rfl
  | cons p rest ih =>
    obtain ⟨hp, hrest⟩ := List.forall_mem_cons.1 h
    rw [readDigits_cons (memRead_byteAt hp) (ih hrest), pairDigits_clear]; rfl

/-- RENDER of a booted block in Set mode with the flag clear. -/
theorem exec_render_clear {s : State} {f : Field} (hboot : s.Booted) (hmode : s.ctlMode = .set)
    (hfield : s.ctlField = .holds f) (hbf : s.bf = 0x00) :
    exec .render s = .next (setIndicator (setInd (shownBy f))
      (emitFrames (digitFrames s.params.digitOrder (plainDigits s (viewPairs (shownBy f)))) s)) := by
  have hdigits := readDigits_clear (some f) fun p hp => hboot.bytes p.field (viewPairs_field_ne (shownBy f) hp)
  show execRender s = _
  rw [execRender_set hmode, renderSet_written hfield, hbf, viewFrames_of_digits hdigits]; rfl

/-- In the pass of its view, the tens and the units of an edited field stand at its slots (42_display.md R161, R162). -/
theorem digitFrames_editedSlots (order : DigitOrder) (f : Field) (s : State) :
    (digitFrames order (plainDigits s (viewPairs (shownBy f))))[(editedSlots order f).1]? =
        some ⟨BitVec.ofNat 8 ((editedSlots order f).1 + 1),
          (tensOf (committedTo f) (byteAt s (committedTo f))).setWidth 8⟩ ∧
      (digitFrames order (plainDigits s (viewPairs (shownBy f))))[(editedSlots order f).2]? =
        some ⟨BitVec.ofNat 8 ((editedSlots order f).2 + 1),
          (unitsOf (committedTo f) (byteAt s (committedTo f))).setWidth 8⟩ := by
  cases order <;> cases f <;> exact ⟨rfl, rfl⟩

/-! ### Commit, then render -/

theorem commitByte_booted {s : State} (f : Field) (c b : Byte) (h : s.Booted) : (commitByte f c b s).Booted where
  view := h.view
  field := h.field
  bytes g hg := by
    rw [commitByte_tr, Memory.read_write]
    split
    · simp
    · exact h.bytes g hg

theorem byteAt_commitByte (f : Field) (c b : Byte) (s : State) : byteAt (commitByte f c b s) (committedTo f) = b := by
  rw [byteAt, commitByte_tr, Memory.read_write_same]; rfl

/-- A digit as the data byte of its frame. -/
theorem setWidth_digit {n : Nat} (h : n < 16) : (BitVec.ofNat 4 n).setWidth 8 = BitVec.ofNat 8 n := by
  apply BitVec.eq_of_toNat_eq
  rw [BitVec.toNat_setWidth, BitVec.toNat_ofNat, BitVec.toNat_ofNat, Nat.mod_eq_of_lt h]

theorem shownTens_lt (p : Params) (f : Field) (v : Byte) : shownTens p f v < 16 := by
  by_cases hf : f = .hour
  · rw [shownTens, if_pos hf]; omega
  · have hle : clampedCount f v ≤ 99 := (clampedCount_le f v).trans (maxCount_le f)
    rw [shownTens, if_neg hf, shownCount_of_ne_hour p hf v]; omega

/-- Settles O41: the block stays booted over the commit, so the pass completes, and it shows at the field's slots the digits
of the byte just committed. -/
theorem commitThenRenderShowsCount : Obligations.CommitThenRenderShowsCount := by
  intro s f v hboot hmode hfield hbf hv
  have hcommit := exec_encOf_committedByte hv s
  generalize BitVec.ofNat 8 (clampedCount f v) = c at hcommit
  have hrender := exec_render_clear (commitByte_booted f c (committedByte s.params f v) hboot) hmode hfield hbf
  obtain ⟨htens, hunits⟩ :=
    digitFrames_editedSlots s.params.digitOrder f (commitByte f c (committedByte s.params f v) s)
  rw [byteAt_commitByte, tensOf_committedByte, setWidth_digit (shownTens_lt s.params f v)] at htens
  rw [byteAt_commitByte, unitsOf_committedByte, setWidth_digit (by omega)] at hunits
  exact ⟨_, _, _, hcommit, hrender, rfl, htens, hunits⟩

end Sys2Proof.Proofs.Commit
end

section
/-!
PROOFS of the blink counter's statements (41_blink.md R141 to R144): one tick of the counter, its closed form after any number
of ticks, its independence of the host, and the inversions in every execution that is fair to the tick agent.
-/

namespace Sys2Proof.Proofs.Blink

open Sys2Proof.Machine Sys2Proof.Spec

/-! ### One tick (R141) -/

/-- Settles O18: 0x4000 is the word of TICK, and its two cases are those of the counter. -/
theorem tickAdvancesBlinkCounter : Obligations.TickAdvancesBlinkCounter := by
  refine ⟨Encoding.decode_eq_ok_iff.2 rfl, fun s => ?_⟩
  rw [exec_tick]
  split
  case isTrue h => rw [tickCounter_over s h, invertFlag]
  case isFalse h =>
    rw [tickCounter_under s (by omega)]
    simp [BitVec.ofNat_add]

/-! ### Many ticks (R142) -/

/-- Nothing stops a tick, so t ticks are t rounds of the counter. -/
theorem afterTicks_eq (t : Nat) (s : State) : afterTicks t s = some (tickCounter^[t] s) := by
  induction t generalizing s with
  | zero => rfl
  | succ t ih => exact ih (tickCounter s)

/-- The flag after a number of inversions from 0x00. -/
def flagAfter (n : Nat) : Byte := if n % 2 = 1 then 0xFF else 0x00

theorem flagAfter_succ (n : Nat) : flagAfter (n + 1) = invertFlag (flagAfter n) := by
  obtain h | h := Nat.mod_two_eq_zero_or_one n <;> simp [flagAfter, invertFlag, Nat.add_mod, h]

/-- The blink state t ticks after `BC = 0`, `BF = 0x00`, by R142. -/
def blinkPhase (t : Nat) (s : State) : State :=
  { s with bc := BitVec.ofNat 8 (t % s.params.blinkPeriod), bf := flagAfter (t / s.params.blinkPeriod) }

/-- The count of a phase is a remainder, which fits its byte. -/
theorem blinkPhase_count (t : Nat) (s : State) : (blinkPhase t s).bc.toNat = t % s.params.blinkPeriod := by
  have hlt : t % s.params.blinkPeriod < s.params.blinkPeriod := Nat.mod_lt _ (Nat.succ_pos _)
  have hP : s.params.blinkPeriod ≤ 2 ^ 8 := s.params.blinkThreshold.isLt
  exact Nat.mod_eq_of_lt (hlt.trans_le hP)

/-- A tick leads from each phase to the next: it inverts the flag where the period divides the number of the tick, and only
counts elsewhere. -/
theorem tickCounter_blinkPhase (t : Nat) (s : State) : tickCounter (blinkPhase t s) = blinkPhase (t + 1) s := by
  have hcount := blinkPhase_count t s
  have hP : s.params.blinkPeriod = s.params.blinkThreshold.toNat + 1 := rfl
  have hparams : (blinkPhase t s).params = s.params := rfl
  have hlt : t % s.params.blinkPeriod < s.params.blinkPeriod := Nat.mod_lt _ (Nat.succ_pos _)
  by_cases hlast : t % s.params.blinkPeriod + 1 = s.params.blinkPeriod
  · have hmod : (t + 1) % s.params.blinkPeriod = 0 := by
      rw [← Nat.mod_add_mod, hlast, Nat.mod_self]
    have hdiv : (t + 1) / s.params.blinkPeriod = t / s.params.blinkPeriod + 1 :=
      Nat.succ_div_of_dvd (Nat.dvd_of_mod_eq_zero hmod)
    rw [tickCounter_over _ (by rw [hparams]; omega)]
    simp [blinkPhase, hmod, hdiv, flagAfter_succ]
  · have hmod : (t + 1) % s.params.blinkPeriod = t % s.params.blinkPeriod + 1 := by
      rw [← Nat.mod_add_mod, Nat.mod_eq_of_lt (by omega)]
    have hdiv : (t + 1) / s.params.blinkPeriod = t / s.params.blinkPeriod :=
      Nat.succ_div_of_mod_ne_zero (by omega)
    rw [tickCounter_under _ (by rw [hparams]; omega), hcount]
    simp [blinkPhase, hmod, hdiv]

/-- From `BC = 0`, `BF = 0x00`, the counter goes through the phases. -/
theorem tickCounter_iterate {s : State} (hbc : s.bc = 0) (hbf : s.bf = 0x00) (t : Nat) :
    tickCounter^[t] s = blinkPhase t s := by
  induction t with
  | zero => cases s; simp_all [blinkPhase, flagAfter]
  | succ t ih => rw [Function.iterate_succ_apply', ih, tickCounter_blinkPhase]

/-- Settles O19: the ticks lead through the phases of R142. -/
theorem blinkPeriod : Obligations.BlinkPeriod := by
  refine ⟨fun s t hbc hbf => ?_, rfl, fun p hp => ?_⟩
  · rw [afterTicks_eq, tickCounter_iterate hbc hbf]; rfl
  · rw [Params.blinkPeriod, hp]; rfl

/-! ### The host (R143) -/

/-- Settles O20: no update of a host operation touches the blink state, its answer is the same under every count, and
power-on resets both rows. -/
theorem hostLeavesBlinkState : Obligations.HostLeavesBlinkState := by
  refine ⟨fun i s t hi h => ?_, fun i s x hi => ?_, fun s => ⟨rfl, rfl⟩⟩
  · obtain ⟨htick, -⟩ | ⟨-, effect⟩ := Invariant.exec_next_cases h
    · exact absurd htick hi
    · exact Invariant.hostEffect_keeps_blinkState effect
  · obtain ⟨r, log, hr⟩ := Observation.exec_answersUnseen hi s
    exact ⟨_, hr.answer s.bc s.bf s.pending, hr.answer x s.bf s.pending⟩

/-! ### Fair executions (R144) -/

/-- The two states have the same count, flag and parameters. -/
structure SameBlink (s t : State) : Prop where
  bc : t.bc = s.bc
  bf : t.bf = s.bf
  params : t.params = s.params

theorem SameBlink.trans {s t u : State} (h : SameBlink s t) (h' : SameBlink t u) : SameBlink s u :=
  ⟨h'.bc.trans h.bc, h'.bf.trans h.bf, h'.params.trans h.params⟩

/-- The state `t` follows `s` by a tick that only counts: the flag stays, and the count is one more, within the threshold. -/
structure CountsOn (s t : State) : Prop where
  bf : t.bf = s.bf
  params : t.params = s.params
  count : t.bc.toNat = s.bc.toNat + 1
  within : t.bc.toNat ≤ s.params.blinkThreshold.toNat

/-- A tick with the blink state of `s` inverts its flag or counts on. -/
theorem SameBlink.tick_cases {s u : State} (h : SameBlink s u) :
    (tickCounter u).bf = ~~~ s.bf ∨ CountsOn s (tickCounter u) := by
  obtain ⟨hbc, hbf, hparams⟩ := h
  by_cases hc : u.bc.toNat + 1 ≤ u.params.blinkThreshold.toNat
  · right
    exact
      { bf := by rw [tickCounter_under u hc, ← hbf]
        params := (tickCounter_params u).trans hparams
        count := by rw [tickCounter_count u hc, hbc]
        within := hparams ▸ tickCounter_bounded u }
  · left
    rw [tickCounter_over u (by omega), ← hbf, invertFlag]

/-- A step on one presented word ticks the counter if the word is TICK's, and leaves the blink state if it is not. -/
theorem step_presented_cases {s t : State} {w : Word} (h : step { s with pending := [w] } = .next t) :
    (∃ u, SameBlink s u ∧ t = tickCounter u) ∨ (decode w ≠ .ok .tick ∧ SameBlink s t) := by
  rw [Scope.step_of_presented (running_of_step h) rfl] at h
  obtain ⟨i, hd, hi⟩ | ⟨r, hd, hr⟩ := stepWord_cases w { s with pending := [] }
  · obtain ⟨-, htick⟩ | ⟨hne, effect⟩ := Invariant.exec_next_cases (hi.symm.trans h)
    · exact .inl ⟨{ s with pending := [] }, ⟨rfl, rfl, rfl⟩, htick⟩
    · obtain ⟨hbc, hbf⟩ := Invariant.hostEffect_keeps_blinkState effect
      obtain ⟨hparams, -⟩ := Scope.hostEffect_keeps_configuration effect
      exact .inr ⟨by simpa [hd] using hne, hbc, hbf, hparams⟩
  · obtain rfl := Host.Outcome.next.inj (hr.symm.trans h)
    exact .inr ⟨by simp [hd], rfl, rfl, rfl⟩

section
variable {words : Nat → Word} {states : Nat → State} (hexec : IsExecution words states)
include hexec

/-- Where the tick agent steps `k` instants on, the first tick from here finds the blink state of now. -/
theorem exists_next_tick {n k : Nat} (hk : decode (words (n + k)) = .ok .tick) :
    ∃ m u, n < m ∧ SameBlink (states n) u ∧ states m = tickCounter u := by
  induction k generalizing n with
  | zero =>
    obtain ⟨u, hsame, hu⟩ | ⟨hno, -⟩ := step_presented_cases (hexec n)
    · exact ⟨n + 1, u, Nat.lt_succ_self n, hsame, hu⟩
    · exact absurd hk hno
  | succ k ih =>
    obtain ⟨u, hsame, hu⟩ | ⟨-, hstay⟩ := step_presented_cases (hexec n)
    · exact ⟨n + 1, u, Nat.lt_succ_self n, hsame, hu⟩
    · obtain ⟨m, u, hm, hsame, hu⟩ := ih (n := n + 1) (by rwa [Nat.add_right_comm])
      exact ⟨m, u, Nat.lt_of_succ_lt hm, hstay.trans hsame, hu⟩

variable (hfair : FairToTick words)
include hfair

/-- After every instant there is a tick, which inverts the flag or counts on. -/
theorem inverts_or_countsOn (n : Nat) :
    ∃ m, n < m ∧ ((states m).bf = ~~~ (states n).bf ∨ CountsOn (states n) (states m)) := by
  obtain ⟨l, hl, htick⟩ := hfair n
  obtain ⟨k, rfl⟩ := Nat.exists_eq_add_of_le hl
  obtain ⟨m, u, hm, hsame, hu⟩ := exists_next_tick hexec htick
  exact ⟨m, hm, hu ▸ hsame.tick_cases⟩

/-- The flag inverts, by induction on a bound `d` of the distance of the count from the threshold. -/
theorem inverts_of_distance (d : Nat) {n : Nat}
    (hd : (states n).params.blinkThreshold.toNat ≤ (states n).bc.toNat + d) :
    ∃ m, n < m ∧ (states m).bf = ~~~ (states n).bf := by
  induction d generalizing n with
  | zero =>
    obtain ⟨m, hm, hinverts | ⟨-, -, hcount, hwithin⟩⟩ := inverts_or_countsOn hexec hfair n
    · exact ⟨m, hm, hinverts⟩
    · omega
  | succ d ih =>
    obtain ⟨m, hm, hinverts | ⟨hbf, hparams, hcount, -⟩⟩ := inverts_or_countsOn hexec hfair n
    · exact ⟨m, hm, hinverts⟩
    · obtain ⟨l, hl, hinverts⟩ := ih (n := m) (by rw [hparams]; omega)
      exact ⟨l, hm.trans hl, hbf ▸ hinverts⟩

end

/-- Settles O22: the count comes nearer to the threshold with each tick that does not invert the flag. -/
theorem fairExecutionInvertsFlag : Obligations.FairExecutionInvertsFlag := fun _ states hexec hfair n =>
  inverts_of_distance hexec hfair (states n).params.blinkThreshold.toNat (Nat.le_add_left _ _)

end Sys2Proof.Proofs.Blink
end

section
/-!
PROOFS of the display multiplexer's statements (42_display.md R160 to R171): the six frames of each view in the words of R161
to R163, the first byte that is missing, and from these how every RENDER_DATE, RENDER_TIME and RENDER ends.
-/

namespace Sys2Proof.Proofs.Display

open Sys2Proof.Machine Sys2Proof.Spec Sys2Proof.Proofs.HostOperations Sys2Proof.Proofs.Codec Sys2Proof.Proofs.Commit
  Sys2Proof.Proofs.Encoding

/-! ### The frames of a view -/

/-- The frames of a view's pass, in the words of 42_display.md R161 to R163. -/
def viewPass (view : View) (ovl : Option Field) (x : Byte) (s : State) : List Frame :=
  match view with
  | .date => dateFrames s.params.digitOrder ovl x (byteAt s .month) (byteAt s .date) (byteAt s .year)
  | .time => timeFrames s.params.digitOrder ovl x (byteAt s .hour) (byteAt s .minute) (byteAt s .second)

/-- The digits of some pairs, overlaid where the tag is the edited field's. -/
def shownDigits (ovl : Option Field) (x : Byte) (s : State) (ps : List DigitPair) : List Nibble :=
  ps.flatMap fun p => pairDigits ovl x p (byteAt s p.field)

theorem digitFrames_eq_passFrames (order : DigitOrder) (d₁ d₂ d₃ d₄ d₅ d₆ : Nibble) :
    digitFrames order [d₁, d₂, d₃, d₄, d₅, d₆] = passFrames order d₁ d₂ d₃ d₄ d₅ d₆ := by
  cases order <;> rfl

/-- The overlay test of R163 is equality of the tags. -/
theorem overlaid_some (ovl : Option Field) (t : Field) : overlaid ovl (some t) = (ovl == some t) := by
  cases ovl with
  | none => rfl
  | some o => cases o <;> cases t <;> rfl

theorem overlaid_none (ovl : Option Field) : overlaid ovl none = false := by cases ovl <;> rfl

theorem pairDigits_eq (ovl : Option Field) (x : Byte) (p : DigitPair) (b : Byte) :
    pairDigits ovl x p b =
      [shown (overlaid ovl p.tag) x (tensOf p.field b), shown (overlaid ovl p.tag) x (unitsOf p.field b)] := by
  rw [pairDigits, decodeField_eq]
  cases overlaid ovl p.tag <;> rfl

/-- The digits of a view's pairs, at their register addresses, are its frames. -/
theorem digitFrames_shownDigits (view : View) (ovl : Option Field) (x : Byte) (s : State) :
    digitFrames s.params.digitOrder (shownDigits ovl x s (viewPairs view)) = viewPass view ovl x s := by
  cases view <;>
    simp only [shownDigits, viewPairs, pairDigits_eq, overlaid_some, overlaid_none, List.flatMap_cons,
      List.flatMap_nil, List.cons_append, List.nil_append, digitFrames_eq_passFrames] <;> rfl

/-! ### The first unwritten byte -/

theorem bytesOf_eq (view : View) : bytesOf view = (viewPairs view).map DigitPair.field := by cases view <;> rfl

theorem firstUnwritten_cons_unwritten {s : State} {f : TrField} (h : s.tr.read f.index = none) (rest : List TrField) :
    firstUnwritten s (f :: rest) = some f := if_pos h

theorem firstUnwritten_cons_written {s : State} {f : TrField} (h : s.tr.read f.index ≠ none) (rest : List TrField) :
    firstUnwritten s (f :: rest) = firstUnwritten s rest := if_neg h

/-- Which byte is the first unwritten one depends on the Time Record alone. -/
theorem firstUnwritten_congr {s s' : State} (h : s.tr = s'.tr) (fs : List TrField) :
    firstUnwritten s fs = firstUnwritten s' fs := by
  induction fs with
  | nil => rfl
  | cons f rest ih => simp only [firstUnwritten, h, ih]

/-- With every byte written the digits of the pairs are read. -/
theorem readDigits_written (ovl : Option Field) (x : Byte) {s : State} {ps : List DigitPair}
    (h : firstUnwritten s (ps.map DigitPair.field) = none) : readDigits ovl x s ps = .ok (shownDigits ovl x s ps) := by
  induction ps with
  | nil => rfl
  | cons p rest ih =>
    by_cases hp : s.tr.read p.field.index = none
    · cases (firstUnwritten_cons_unwritten hp _).symm.trans h
    · exact readDigits_cons (memRead_byteAt hp) (ih ((firstUnwritten_cons_written hp _).symm.trans h))

/-- The fault of the digits is that of the first unwritten byte. -/
theorem readDigits_firstUnwritten (ovl : Option Field) (x : Byte) {s : State} {ps : List DigitPair} {f : TrField}
    (h : firstUnwritten s (ps.map DigitPair.field) = some f) :
    readDigits ovl x s ps = .error (.unwritten (.tr f)) := by
  induction ps with
  | nil => cases h
  | cons p rest ih =>
    by_cases hp : s.tr.read p.field.index = none
    · obtain rfl := Option.some.inj ((firstUnwritten_cons_unwritten hp _).symm.trans h)
      exact readDigits_fault (memRead_unwritten hp)
    · exact readDigits_fault_later (memRead_byteAt hp) (ih ((firstUnwritten_cons_written hp _).symm.trans h))

/-- A view pass with its bytes written. -/
theorem viewFrames_written {view : View} (ovl : Option Field) (x : Byte) {s : State}
    (h : firstUnwritten s (bytesOf view) = none) :
    viewFrames view ovl x s = .ok (emitFrames (viewPass view ovl x s) s) := by
  rw [viewFrames_of_digits (readDigits_written ovl x (bytesOf_eq view ▸ h)), digitFrames_shownDigits]

/-- A view pass with one of its bytes unwritten. -/
theorem viewFrames_firstUnwritten {view : View} (ovl : Option Field) (x : Byte) {s : State} {f : TrField}
    (h : firstUnwritten s (bytesOf view) = some f) : viewFrames view ovl x s = .error (.unwritten (.tr f)) := by
  rw [viewFrames, readDigits_firstUnwritten ovl x (bytesOf_eq view ▸ h)]; rfl

/-! ### The bytes of each view -/

theorem byteAt_of_read {s : State} {f : TrField} {b : Byte} (h : s.tr.read f.index = some b) : byteAt s f = b := by
  rw [byteAt, h]; rfl

section
variable {s : State} {mo dt yr : Byte} (h5 : s.tr.read 5 = some mo) (h4 : s.tr.read 4 = some dt)
  (h6 : s.tr.read 6 = some yr)
include h5 h4 h6

theorem firstUnwritten_date : firstUnwritten s (bytesOf .date) = none := by
  simp [bytesOf, firstUnwritten, TrField.index, h5, h4, h6]

theorem viewPass_date (ovl : Option Field) (x : Byte) :
    viewPass .date ovl x s = dateFrames s.params.digitOrder ovl x mo dt yr := by
  rw [viewPass, byteAt_of_read (f := .month) h5, byteAt_of_read (f := .date) h4, byteAt_of_read (f := .year) h6]

end

section
variable {s : State} {h mi sc : Byte} (h2 : s.tr.read 2 = some h) (h1 : s.tr.read 1 = some mi)
  (h0 : s.tr.read 0 = some sc)
include h2 h1 h0

theorem firstUnwritten_time : firstUnwritten s (bytesOf .time) = none := by
  simp [bytesOf, firstUnwritten, TrField.index, h2, h1, h0]

theorem viewPass_time (ovl : Option Field) (x : Byte) :
    viewPass .time ovl x s = timeFrames s.params.digitOrder ovl x h mi sc := by
  rw [viewPass, byteAt_of_read (f := .hour) h2, byteAt_of_read (f := .minute) h1, byteAt_of_read (f := .second) h0]

end

/-! ### RENDER_DATE and RENDER_TIME (R166, R167) -/

/-- Settles O32: the words are those the operations encode to, and a date pass ends by whether its bytes are written. -/
theorem renderDateEmitsDateView : Obligations.RenderDateEmitsDateView := by
  refine ⟨decode_eq_ok_iff.2 rfl, fun f => decode_eq_ok_iff.2 (by cases f <;> rfl),
    fun ovl s => ⟨fun mo dt yr h5 h4 h6 => ?_, fun f hf => ?_⟩⟩
  · rw [exec_renderDateOf, viewFrames_written ovl s.bf (firstUnwritten_date h5 h4 h6), viewPass_date h5 h4 h6]; rfl
  · rw [exec_renderDateOf, viewFrames_firstUnwritten ovl s.bf hf]; rfl

/-- Settles O33: as the date view, with the bytes of the time view. -/
theorem renderTimeEmitsTimeView : Obligations.RenderTimeEmitsTimeView := by
  refine ⟨decode_eq_ok_iff.2 rfl, fun f => decode_eq_ok_iff.2 (by cases f <;> rfl),
    fun ovl s => ⟨fun h mi sc h2 h1 h0 => ?_, fun f hf => ?_⟩⟩
  · rw [exec_renderTimeOf, viewFrames_written ovl s.bf (firstUnwritten_time h2 h1 h0), viewPass_time h2 h1 h0]; rfl
  · rw [exec_renderTimeOf, viewFrames_firstUnwritten ovl s.bf hf]; rfl

/-! ### How RENDER ends (R168, R224) -/

section
variable {s : State} (hm : s.ctlMode = .run)
include hm

theorem exec_render_run : exec .render s = settle s (renderRun s.bf s) := execRender_run hm

theorem exec_render_view_unwritten (hv : s.ctlView = .unwritten) :
    exec .render s = .next (raiseFault (.unwritten .ctlView) s) := by
  rw [exec_render_run hm, renderRun_view_unwritten hv, settle_error]

theorem exec_render_hour_unwritten {view : View} (hv : s.ctlView = .holds view) (hh : s.tr.read 2 = none) :
    exec .render s = .next (raiseFault (.unwritten (.tr .hour)) s) := by
  rw [exec_render_run hm, renderRun_hour_unwritten hv hh, settle_error]

section
variable {view : View} {h : Byte} (hv : s.ctlView = .holds view) (hh : s.tr.read 2 = some h)
include hv hh

theorem exec_render_run_fault {f : TrField} (hf : firstUnwritten s (bytesOf view) = some f) :
    exec .render s = .next (raiseFault (.unwritten (.tr f)) s) := by
  rw [exec_render_run hm, renderRun_written hv (memRead_eq_ok.2 hh), viewFrames_firstUnwritten none s.bf hf]; rfl

theorem exec_render_run_pass (hw : firstUnwritten s (bytesOf view) = none) :
    exec .render s =
      .next (setIndicator (pmInd s.params.pmIndMode h) (emitFrames (viewPass view none s.bf s) s)) := by
  rw [exec_render_run hm, renderRun_written hv (memRead_eq_ok.2 hh), viewFrames_written none s.bf hw]; rfl

end

end

section
variable {s : State} (hm : s.ctlMode = .set)
include hm

theorem exec_render_set : exec .render s = settle s (renderSet s.bf s) := execRender_set hm

theorem exec_render_field_unwritten (hf : s.ctlField = .unwritten) :
    exec .render s = .next (raiseFault (.unwritten .ctlField) s) := by
  rw [exec_render_set hm, renderSet_field_unwritten hf, settle_error]

section
variable {fl : Field} (hfl : s.ctlField = .holds fl)
include hfl

theorem exec_render_set_fault {f : TrField} (hf : firstUnwritten s (bytesOf (shownBy fl)) = some f) :
    exec .render s = .next (raiseFault (.unwritten (.tr f)) s) := by
  rw [exec_render_set hm, renderSet_written hfl, viewFrames_firstUnwritten (some fl) s.bf hf]; rfl

theorem exec_render_set_pass (hw : firstUnwritten s (bytesOf (shownBy fl)) = none) :
    exec .render s =
      .next (setIndicator (setInd (shownBy fl)) (emitFrames (viewPass (shownBy fl) (some fl) s.bf s) s)) := by
  rw [exec_render_set hm, renderSet_written hfl, viewFrames_written (some fl) s.bf hw]; rfl

end

end

theorem shownBy_date {fl : Field} (h : fl = .month ∨ fl = .day ∨ fl = .year) : shownBy fl = .date := by
  obtain rfl | rfl | rfl := h <;> rfl

theorem shownBy_time {fl : Field} (h : fl = .hour ∨ fl = .minute) : shownBy fl = .time := by
  obtain rfl | rfl := h <;> rfl

/-- The lamp by the bits of the hour byte is the lamp by its quotient (42_display.md R165). -/
theorem pmInd_eq_pmLamp (mode : PmIndMode) (h : Byte) : pmInd mode h = pmLamp mode h := by
  cases mode <;> (revert h; decide)

/-- Settles O34: the Run-mode pass of each view. -/
theorem renderInRunMode : Obligations.RenderInRunMode := by
  refine fun s h hm h2 => ⟨fun mo dt yr hv h5 h4 h6 => ?_, fun mi sc hv h1 h0 => ?_⟩
  · rw [exec_render_run_pass hm hv h2 (firstUnwritten_date h5 h4 h6), viewPass_date h5 h4 h6, pmInd_eq_pmLamp]; rfl
  · rw [exec_render_run_pass hm hv h2 (firstUnwritten_time h2 h1 h0), viewPass_time h2 h1 h0, pmInd_eq_pmLamp]; rfl

/-- Settles O35: the Set-mode pass of the view that shows the edited field. -/
theorem renderInSetMode : Obligations.RenderInSetMode := by
  refine fun s fl hm hfl => ⟨fun mo dt yr hdate h5 h4 h6 => ?_, fun h mi sc htime h2 h1 h0 => ?_⟩
  · have hview := shownBy_date hdate
    rw [exec_render_set_pass hm hfl (hview ▸ firstUnwritten_date h5 h4 h6), hview, viewPass_date h5 h4 h6]; rfl
  · have hview := shownBy_time htime
    rw [exec_render_set_pass hm hfl (hview ▸ firstUnwritten_time h2 h1 h0), hview, viewPass_time h2 h1 h0]; rfl

/-- Settles O36: one fault for each read of the two modes, in their order. -/
theorem renderFaultOrder : Obligations.RenderFaultOrder := by
  refine fun s => ⟨exec_render_view_unwritten, fun view hm hv hh => exec_render_hour_unwritten hm hv hh,
    fun view f hm hv hh hf => ?_, exec_render_field_unwritten, fun fl f hm hfl hdate hf => ?_,
    fun fl f hm hfl htime hf => ?_⟩
  · obtain ⟨h, h2⟩ := Option.ne_none_iff_exists'.1 hh
    exact exec_render_run_fault hm hv h2 hf
  · exact exec_render_set_fault hm hfl (shownBy_date hdate ▸ hf)
  · exact exec_render_set_fault hm hfl (shownBy_time htime ▸ hf)

/-! ### What the flag reaches (R163, R169, R257) -/

/-- The state with other contents of `CTL.field` and `BF`. -/
def withFieldFlag (fl : Latch Field) (x : Byte) (s : State) : State := { s with ctlField := fl, bf := x }

/-- A pass without overlay shows the same frames under every field and flag. -/
theorem viewPass_none_withFieldFlag (view : View) (fl : Latch Field) (x y : Byte) (s : State) :
    viewPass view none x (withFieldFlag fl x s) = viewPass view none y s := by
  cases view <;> rfl

/-- RENDER in Run mode, by the order of its reads: a fault names a register that is the same under every field and flag, and
the pass that completes has no overlay. -/
theorem exec_render_run_withFieldFlag {s : State} (hm : s.ctlMode = .run) (fl : Latch Field) (x : Byte) :
    ∃ t, exec .render s = .next t ∧ exec .render (withFieldFlag fl x s) = .next (withFieldFlag fl x t) := by
  cases hv : s.ctlView with
  | unwritten =>
    exact ⟨_, exec_render_view_unwritten hm hv, exec_render_view_unwritten (s := withFieldFlag fl x s) hm hv⟩
  | holds view =>
    cases hh : s.tr.read 2 with
    | none =>
      exact ⟨_, exec_render_hour_unwritten hm hv hh,
        exec_render_hour_unwritten (s := withFieldFlag fl x s) hm hv hh⟩
    | some h =>
      have hbytes : firstUnwritten (withFieldFlag fl x s) (bytesOf view) = firstUnwritten s (bytesOf view) :=
        firstUnwritten_congr (by rfl) _
      cases hw : firstUnwritten s (bytesOf view) with
      | some f =>
        exact ⟨_, exec_render_run_fault hm hv hh hw,
          exec_render_run_fault (s := withFieldFlag fl x s) hm hv hh (hbytes.trans hw)⟩
      | none =>
        refine ⟨_, exec_render_run_pass hm hv hh hw, ?_⟩
        rw [← viewPass_none_withFieldFlag view fl x s.bf s]
        exact exec_render_run_pass (s := withFieldFlag fl x s) hm hv hh (hbytes.trans hw)

/-- Settles O37: the other contents are those of a state with the same view and the same bytes. -/
theorem runModeNeverOverlays : Obligations.RunModeNeverOverlays := fun _ fl x hm =>
  exec_render_run_withFieldFlag hm fl x

/-- A set flag shows 0xF whatever the digit (42_display.md R163). -/
theorem shown_set (d : Nibble) : shown true 0xFF d = 0xF := by revert d; decide

/-- The frame that shows 0xF at a place of the pass counted from 0. -/
def blankFrame (k : Nat) : Frame := ⟨BitVec.ofNat 8 (k + 1), 0x0F⟩

/-- The pass of an edited field while the flag is set is the pass under any other flag with the edited pair blanked. -/
theorem viewPass_set (fl : Field) (x : Byte) (s : State) :
    viewPass (shownBy fl) (some fl) 0xFF s =
      ((viewPass (shownBy fl) (some fl) x s).set (editedSlots s.params.digitOrder fl).1
        (blankFrame (editedSlots s.params.digitOrder fl).1)).set (editedSlots s.params.digitOrder fl).2
          (blankFrame (editedSlots s.params.digitOrder fl).2) := by
  cases hd : s.params.digitOrder <;> cases fl <;>
    simp only [viewPass, shownBy, dateFrames, timeFrames, hd, beq_self_eq_true, shown_set] <;> rfl

theorem passFrames_length (order : DigitOrder) (d₁ d₂ d₃ d₄ d₅ d₆ : Nibble) :
    (passFrames order d₁ d₂ d₃ d₄ d₅ d₆).length = 6 := by
  cases order <;> rfl

theorem viewPass_length (view : View) (ovl : Option Field) (x : Byte) (s : State) :
    (viewPass view ovl x s).length = 6 := by
  cases view <;> exact passFrames_length _ _ _ _ _ _ _

theorem editedSlots_lt (order : DigitOrder) (fl : Field) :
    (editedSlots order fl).1 < 6 ∧ (editedSlots order fl).2 < 6 := by
  cases order <;> cases fl <;> decide

theorem editedSlots_ne (order : DigitOrder) (fl : Field) : (editedSlots order fl).1 ≠ (editedSlots order fl).2 := by
  cases order <;> cases fl <;> decide

/-- A Set-mode pass that did not fault read written bytes alone. -/
theorem firstUnwritten_of_no_fault {s u : State} {fl : Field} (hm : s.ctlMode = .set) (hfl : s.ctlField = .holds fl)
    (hu : exec .render s = .next u) (hno : u.fault = none) : firstUnwritten s (bytesOf (shownBy fl)) = none := by
  cases hw : firstUnwritten s (bytesOf (shownBy fl)) with
  | none => rfl
  | some f =>
    obtain rfl := Host.Outcome.next.inj ((exec_render_set_fault hm hfl hw).symm.trans hu)
    cases hno

/-- Settles O38: the pass under a set flag completes, so the other does, and it is the other with the edited pair blanked. -/
theorem overlayReachesOnlyEditedPair : Obligations.OverlayReachesOnlyEditedPair := by
  intro s t u fl x hm hfl _ ht hu hno
  have hw := firstUnwritten_of_no_fault (s := { s with bf := 0xFF }) hm hfl hu hno
  have hbytes : firstUnwritten { s with bf := x } (bytesOf (shownBy fl)) =
      firstUnwritten { s with bf := 0xFF } (bytesOf (shownBy fl)) := firstUnwritten_congr (by rfl) _
  obtain rfl := Host.Outcome.next.inj
    ((exec_render_set_pass (s := { s with bf := x }) hm hfl (hbytes.trans hw)).symm.trans ht)
  obtain rfl := Host.Outcome.next.inj
    ((exec_render_set_pass (s := { s with bf := 0xFF }) hm hfl hw).symm.trans hu)
  refine ⟨viewPass (shownBy fl) (some fl) x s, viewPass (shownBy fl) (some fl) 0xFF s, rfl, rfl,
    viewPass_length _ _ _ _, viewPass_length _ _ _ _, fun k hk₁ hk₂ => ?_, ?_⟩
  · rw [viewPass_set fl x s, List.getElem?_set_ne hk₂.symm, List.getElem?_set_ne hk₁.symm]
  · obtain ⟨hlt₁, hlt₂⟩ := editedSlots_lt s.params.digitOrder fl
    have hlen := viewPass_length (shownBy fl) (some fl) x s
    rw [viewPass_set fl x s]
    rintro k (rfl | rfl)
    · rw [List.getElem?_set_ne (editedSlots_ne _ _).symm, List.getElem?_set_self (by omega)]; rfl
    · rw [List.getElem?_set_self (by rw [List.length_set]; omega)]; rfl

end Sys2Proof.Proofs.Display
end

section
/-!
PROOFS of the host port's statements (43_host.md R201, R202): what SET_TR and SET_CTL store, the words that spell them, and
the words next to these that are refused.
-/

namespace Sys2Proof.Proofs.HostPort

open Sys2Proof.Machine Sys2Proof.Spec Sys2Proof.Proofs.HostOperations Sys2Proof.Proofs.Encoding

/-- A word of SET_TR with selector 7 is refused: its selector is the first of R75's checks that applies. -/
theorem decode_setTr_selSeven (b : Byte) : decode (0x87#8 ++ b) = .error .rsvSel := by
  have hw : (0x87#8 ++ b).toNat = 0x8700 + b.toNat := by rw [toNat_append]; rfl
  have hclass : opClass (0x87#8 ++ b) = 8 := by rw [opClass, hw]; omega
  obtain ⟨-, -, hrefused, -⟩ := reservedWordsRefusedInOrder (0x87#8 ++ b)
  refine hrefused (not_reservedOpcode (by omega)) ?bits ?sel
  case bits => rw [reservedBits, hw]; omega
  case sel => rw [reservedSel, hw]; omega

/-- A word of SET_CTL with a field code above 4 is refused, whatever its mode: its field code is the first of R75's checks
that applies. -/
theorem decode_setCtl_fieldAboveFour (view : BitVec 1) {fld : BitVec 3} (mode : BitVec 1) (h : 5 ≤ fld.toNat) :
    decode (0x9#4 ++ 0#7 ++ view ++ fld ++ mode) = .error .rsvField := by
  have hw : (0x9#4 ++ 0#7 ++ view ++ fld ++ mode).toNat = 0x9000 + 16 * view.toNat + 2 * fld.toNat + mode.toNat := by
    simp only [toNat_append, BitVec.toNat_ofNat]; omega
  have hclass : opClass (0x9#4 ++ 0#7 ++ view ++ fld ++ mode) = 9 := by rw [opClass, hw]; omega
  obtain ⟨-, -, -, hrefused, -⟩ := reservedWordsRefusedInOrder (0x9#4 ++ 0#7 ++ view ++ fld ++ mode)
  refine hrefused (not_reservedOpcode (by omega)) ?bits (not_reservedSel (by omega)) ?field
  case bits => rw [reservedBits, hw]; omega
  case field => rw [reservedField, hw]; omega

/-- Settles O42: SET_TR is one MemWrite, its word is the one it encodes to, and a byte written reads back. -/
theorem setTrStoresByte : Obligations.SetTrStoresByte :=
  ⟨fun b s => ⟨exec_setTrOf .second b s, exec_setTrOf .minute b s, exec_setTrOf .hour b s, exec_setTrOf .dayOfWeek b s,
      exec_setTrOf .date b s, exec_setTrOf .month b s, exec_setTrOf .year b s⟩,
    fun f b => decode_eq_ok_iff.2 (encode_setTrOf f b),
    Memory.read_write_same,
    decode_setTr_selSeven⟩

/-- Settles O43: SET_CTL latches the three rows of CTL, and its word is the one it encodes to. -/
theorem setCtlLatchesAllThree : Obligations.SetCtlLatchesAllThree :=
  ⟨fun view mode s => ⟨exec_setCtlOf .month view mode s, exec_setCtlOf .day view mode s,
      exec_setCtlOf .year view mode s, exec_setCtlOf .hour view mode s, exec_setCtlOf .minute view mode s⟩,
    fun f view mode => decode_eq_ok_iff.2 (encode_setCtlOf f view mode),
    fun view _ mode h => decode_setCtl_fieldAboveFour view mode h⟩

end Sys2Proof.Proofs.HostPort
end

section
/-!
PROOFS of the statements about steps and runs (43_host.md R200, R203, R205, 70_reset_and_hazards.md R253, R258): a step takes
one word from the list, so a run ends, and on a booted block an operation that clamps first sets no mark.
-/

namespace Sys2Proof.Proofs.Runs

open Sys2Proof.Machine Sys2Proof.Spec Sys2Proof.Proofs.HostOperations Sys2Proof.Proofs.Scope
  Sys2Proof.Proofs.Invariant Sys2Proof.Proofs.Display

/-! ### The step on a word that spells an operation (R200, R224) -/

/-- A word that spells an operation runs it. -/
theorem stepWord_of_decoded {w : Word} {i : Instr} (hd : decode w = .ok i) (s : State) : stepWord w s = exec i s := by
  simp only [stepWord, hd]

/-- Settles O7: the marks are clear and the word is presented, so the step is the operation that the word spells. -/
theorem stepRunsDecodedOperation : Obligations.StepRunsDecodedOperation := by
  intro s w rest i hrun hw hd
  calc step s = stepWord w { s with pending := rest } := step_of_presented hrun hw
    _ = exec i { s with pending := rest } := stepWord_of_decoded hd _

/-! ### Every run ends (R205, R223) -/

/-- Every operation answers a next state. -/
theorem exec_next (i : Instr) (s : State) : ∃ t, exec i s = .next t := by
  by_cases hi : i = .tick
  · subst hi
    exact ⟨_, exec_tick s⟩
  · obtain ⟨t, ht, -⟩ := exec_host_effect i hi s
    exact ⟨t, ht⟩

/-- A step on a presented word answers a next state, in which the word is no longer to come. -/
theorem step_takes_word {s : State} {w : Word} {rest : List Word} (hrun : s.Running) (hw : s.pending = w :: rest) :
    ∃ t, step s = .next t ∧ t.pending = rest := by
  rw [step_of_presented hrun hw]
  obtain ⟨i, -, hi⟩ | ⟨r, -, hr⟩ := stepWord_cases w { s with pending := rest }
  · obtain ⟨t, ht⟩ := exec_next i { s with pending := rest }
    obtain ⟨-, hpending⟩ := operationsKeepConfiguration i _ t ht
    exact ⟨t, hi.trans ht, hpending⟩
  · exact ⟨_, hr, rfl⟩

/-- Settles O12, by induction on the words to come: each step takes one of them, and sets a mark or leaves the block
running. -/
theorem everyRunEnds : Obligations.EveryRunEnds := by
  intro s hrun
  generalize hw : s.pending = words
  induction words generalizing s with
  | nil => exact ⟨0, s, le_rfl, core_run_zero s, .inl ⟨hw, hrun⟩⟩
  | cons w rest ih =>
    obtain ⟨t, hstep, hrest⟩ := step_takes_word hrun hw
    by_cases ht : t.Running
    · obtain ⟨k, u, hk, hu, hend⟩ := ih t ht hrest
      exact ⟨k + 1, u, Nat.succ_le_succ hk, (core_run_succ k hstep).trans hu, hend⟩
    · exact ⟨1, t, Nat.succ_pos _, core_run_succ 0 hstep, .inr (not_and_or.1 ht)⟩

/-! ### No operation takes a booted block out of that state (R253) -/

theorem hostEffect_keeps_booted {s t : State} (effect : HostEffect s t) (h : s.Booted) : t.Booted where
  view := by cases effect <;> simp [h.view]
  field := by cases effect <;> simp [h.field]
  bytes g hg := by
    obtain htr | ⟨f, v, htr⟩ := hostEffect_tr effect
    · rw [htr]
      exact h.bytes g hg
    · rw [htr, Memory.read_write]
      split
      · simp
      · exact h.bytes g hg

theorem tickCounter_keeps_booted {s : State} (h : s.Booted) : (tickCounter s).Booted where
  view := by simpa using h.view
  field := by simpa using h.field
  bytes := by simpa using h.bytes

theorem exec_keeps_booted {i : Instr} {s t : State} (h : s.Booted) (ht : exec i s = .next t) : t.Booted := by
  obtain ⟨-, rfl⟩ | ⟨-, effect⟩ := exec_next_cases ht
  · exact tickCounter_keeps_booted h
  · exact hostEffect_keeps_booted effect h

/-! ### An operation that clamps first does not fault on a booted block (R203, R258) -/

/-- No view of a booted block misses a byte. -/
theorem firstUnwritten_of_booted {s : State} (h : s.Booted) (view : View) : firstUnwritten s (bytesOf view) = none := by
  cases view <;> simp [bytesOf, firstUnwritten, h.bytes]

/-- RENDER finds the latch of its mode written, and every byte of the view it shows. -/
theorem exec_render_booted_keeps_fault {s t : State} (h : s.Booted) (ht : exec .render s = .next t) :
    t.fault = s.fault := by
  cases hm : s.ctlMode with
  | run =>
    cases hv : s.ctlView with
    | unwritten => exact absurd hv h.view
    | holds view =>
      obtain ⟨b, hb⟩ := Option.ne_none_iff_exists'.1 (h.bytes .hour (by decide))
      obtain rfl := Host.Outcome.next.inj
        ((exec_render_run_pass hm hv hb (firstUnwritten_of_booted h view)).symm.trans ht)
      rfl
  | set =>
    cases hfl : s.ctlField with
    | unwritten => exact absurd hfl h.field
    | holds fl =>
      obtain rfl := Host.Outcome.next.inj
        ((exec_render_set_pass hm hfl (firstUnwritten_of_booted h (shownBy fl))).symm.trans ht)
      rfl

/-- A view pass of a booted block. -/
theorem viewFrames_of_booted {s : State} (h : s.Booted) (view : View) (ovl : Option Field) :
    settle s (viewFrames view ovl s.bf s) = .next (emitFrames (viewPass view ovl s.bf s) s) := by
  rw [viewFrames_written ovl s.bf (firstUnwritten_of_booted h view), settle_ok]

theorem exec_isRender_booted_keeps_fault {i : Instr} {s t : State} (hi : isRender i) (h : s.Booted)
    (ht : exec i s = .next t) : t.fault = s.fault := by
  obtain rfl | ⟨ovl, rfl | rfl⟩ := hi
  · exact exec_render_booted_keeps_fault h ht
  · rw [exec_renderDateOf, viewFrames_of_booted h] at ht
    obtain rfl := Host.Outcome.next.inj ht
    rfl
  · rw [exec_renderTimeOf, viewFrames_of_booted h] at ht
    obtain rfl := Host.Outcome.next.inj ht
    rfl

/-- What the host clamps first is the count of TO_BCD and of ENC.YEAR, and what it has booted is all that a render reads. -/
theorem exec_clampedFirst_keeps_fault {i : Instr} {s t : State} (hc : ClampedFirst i) (h : s.Booted)
    (ht : exec i s = .next t) : t.fault = s.fault := by
  obtain ⟨hbcd, hyear⟩ := hc
  by_cases hi : i = .tick
  · subst hi
    obtain rfl := Host.Outcome.next.inj ht
    exact tickCounter_fault s
  · cases hostOperation_of_ne_tick hi with
    | toBcd n =>
      obtain ⟨b, hb⟩ := exec_toBcd_le (hbcd n rfl)
      obtain rfl := Host.Outcome.next.inj ((hb s).symm.trans ht)
      rfl
    | dec f b =>
      obtain rfl := Host.Outcome.next.inj ((exec_decOf f b s).symm.trans ht)
      rfl
    | enc f v =>
      have hv : f ≠ .year ∨ v.toNat ≤ 99 := or_iff_not_imp_left.2 fun hf => hyear v (by rw [not_not.1 hf]; rfl)
      obtain ⟨c, b, hcommit⟩ := exec_encOf_commits s.params hv
      obtain rfl := Host.Outcome.next.inj ((hcommit s rfl).symm.trans ht)
      rfl
    | render hi => exact exec_isRender_booted_keeps_fault hi h ht
    | setTr f b =>
      obtain rfl := Host.Outcome.next.inj ((exec_setTrOf f b s).symm.trans ht)
      rfl
    | setCtl f view mode =>
      obtain rfl := Host.Outcome.next.inj ((exec_setCtlOf f view mode s).symm.trans ht)
      rfl

/-- No operation refuses a word: only the decoder does. -/
theorem exec_keeps_refused {i : Instr} {s t : State} (ht : exec i s = .next t) : t.refused = s.refused := by
  obtain ⟨-, rfl⟩ | ⟨-, effect⟩ := exec_next_cases ht
  · exact tickCounter_refused s
  · exact hostEffect_keeps_refused effect

/-! ### A host that boots and clamps first -/

/-- A step of an obedient host takes its word and leaves the block running and booted. -/
theorem step_of_obedientWord {s : State} {w : Word} {rest : List Word} (hrun : s.Running) (hboot : s.Booted)
    (hw : s.pending = w :: rest) (hob : ObedientWord w) :
    ∃ t, step s = .next t ∧ t.pending = rest ∧ t.Running ∧ t.Booted := by
  obtain ⟨i, hd, hc⟩ := hob
  obtain ⟨hfault, hrefused⟩ := hrun
  have hboot' : State.Booted { s with pending := rest } := ⟨hboot.view, hboot.field, hboot.bytes⟩
  obtain ⟨t, ht⟩ := exec_next i { s with pending := rest }
  obtain ⟨-, hpending⟩ := operationsKeepConfiguration i _ t ht
  exact ⟨t, (stepRunsDecodedOperation s w rest i ⟨hfault, hrefused⟩ hw hd).trans ht, hpending,
    ⟨(exec_clampedFirst_keeps_fault hc hboot' ht).trans hfault, (exec_keeps_refused ht).trans hrefused⟩,
    exec_keeps_booted hboot' ht⟩

/-- Settles O13, by induction on the words to come: every step leaves the block running and booted. -/
theorem obedientHostEndsNormally : Obligations.ObedientHostEndsNormally := by
  intro s hrun hboot hob
  generalize hw : s.pending = words at hob ⊢
  induction words generalizing s with
  | nil => exact ⟨s, core_run_zero s, ⟨hw, hrun⟩, hboot⟩
  | cons w rest ih =>
    obtain ⟨hword, hwords⟩ := List.forall_mem_cons.1 hob
    obtain ⟨t, hstep, hrest, htrun, htboot⟩ := step_of_obedientWord hrun hboot hw hword
    obtain ⟨u, hu, hend⟩ := ih t htrun htboot hrest hwords
    exact ⟨u, (core_run_succ rest.length hstep).trans hu, hend⟩

end Sys2Proof.Proofs.Runs
end

section
/-!
PROOFS of the exceptions' statements (60_exceptions.md R220 to R224): which operations fault and on what, the one outcome of
every step, and the stop in a marked state.
-/

namespace Sys2Proof.Proofs.Exceptions

open Sys2Proof.Machine Sys2Proof.Spec Sys2Proof.Proofs.HostOperations Sys2Proof.Proofs.Display

/-! ### The causes of a fault (R221) -/

/-- The fault causes of 60_exceptions.md R221: the operation that meets each in a state, and the mark it records. -/
inductive FaultCause (s : State) : Instr → FaultMark → Prop where
  | toBcd {n : Byte} (h : 99 < n.toNat) : FaultCause s (.toBcd n) (.bcdRange n)
  | encYear {v : Byte} (h : 99 < v.toNat) : FaultCause s (.encYear v) (.bcdRange v)
  | render {i : Instr} {r : RegName} (hi : isRender i) (hr : r ≠ .tr .dayOfWeek) (hbottom : holdsBottom s r) :
      FaultCause s i (.unwritten r)

/-- How an operation ends: with FAULT as before, or with no other write than the mark of its cause. -/
inductive KeepsOrFaults (i : Instr) (s : State) : Prop where
  | keeps {t : State} (h : exec i s = .next t) (hfault : t.fault = s.fault)
  | faults {m : FaultMark} (h : exec i s = .next (raiseFault m s)) (hcause : FaultCause s i m)

/-- The first unwritten byte is one of the bytes read, and unwritten. -/
theorem unwritten_of_firstUnwritten {s : State} {fs : List TrField} {f : TrField} (h : firstUnwritten s fs = some f) :
    f ∈ fs ∧ s.tr.read f.index = none := by
  induction fs with
  | nil => cases h
  | cons g rest ih =>
    by_cases hg : s.tr.read g.index = none
    · obtain rfl := Option.some.inj ((firstUnwritten_cons_unwritten hg rest).symm.trans h)
      exact ⟨List.mem_cons_self, hg⟩
    · obtain ⟨hmem, hnone⟩ := ih ((firstUnwritten_cons_written hg rest).symm.trans h)
      exact ⟨List.mem_cons_of_mem g hmem, hnone⟩

/-- No view shows day_of_week (42_display.md R161). -/
theorem dayOfWeek_not_mem_bytesOf (view : View) : TrField.dayOfWeek ∉ bytesOf view := by cases view <;> decide

/-- A render that misses a byte of its view has a cause to fault. -/
theorem faultCause_of_firstUnwritten {i : Instr} {s : State} {view : View} {f : TrField} (hi : isRender i)
    (hf : firstUnwritten s (bytesOf view) = some f) : FaultCause s i (.unwritten (.tr f)) := by
  obtain ⟨hmem, hnone⟩ := unwritten_of_firstUnwritten hf
  have hne : f ≠ .dayOfWeek := fun h => dayOfWeek_not_mem_bytesOf view (h ▸ hmem)
  exact .render hi (by simpa using hne) hnone

/-- A view pass faults on its first unwritten byte alone. -/
theorem viewPass_keepsOrFaults {i : Instr} {s : State} {view : View} {ovl : Option Field} (hi : isRender i)
    (h : exec i s = settle s (viewFrames view ovl s.bf s)) : KeepsOrFaults i s := by
  cases hw : firstUnwritten s (bytesOf view) with
  | none =>
    rw [viewFrames_written ovl s.bf hw, settle_ok] at h
    exact .keeps h (emitFrames_fault _ s)
  | some f =>
    rw [viewFrames_firstUnwritten ovl s.bf hw, settle_error] at h
    exact .faults h (faultCause_of_firstUnwritten hi hw)

/-- RENDER, by the order of its reads (60_exceptions.md R224). -/
theorem render_keepsOrFaults (s : State) : KeepsOrFaults .render s := by
  have hi : isRender .render := .inl rfl
  cases hm : s.ctlMode with
  | run =>
    cases hv : s.ctlView with
    | unwritten => exact .faults (exec_render_view_unwritten hm hv) (.render hi (by decide) hv)
    | holds view =>
      cases hh : s.tr.read 2 with
      | none => exact .faults (exec_render_hour_unwritten hm hv hh) (.render hi (by decide) hh)
      | some h =>
        cases hw : firstUnwritten s (bytesOf view) with
        | none => exact .keeps (exec_render_run_pass hm hv hh hw) rfl
        | some f => exact .faults (exec_render_run_fault hm hv hh hw) (faultCause_of_firstUnwritten hi hw)
  | set =>
    cases hfl : s.ctlField with
    | unwritten => exact .faults (exec_render_field_unwritten hm hfl) (.render hi (by decide) hfl)
    | holds fl =>
      cases hw : firstUnwritten s (bytesOf (shownBy fl)) with
      | none => exact .keeps (exec_render_set_pass hm hfl hw) rfl
      | some f => exact .faults (exec_render_set_fault hm hfl hw) (faultCause_of_firstUnwritten hi hw)

/-- Every render operation reads one view's bytes, and RENDER a latch and the hour before them. -/
theorem isRender_keepsOrFaults {i : Instr} (hi : isRender i) (s : State) : KeepsOrFaults i s := by
  obtain rfl | ⟨ovl, rfl | rfl⟩ := hi
  · exact render_keepsOrFaults s
  · exact viewPass_keepsOrFaults (.inr ⟨ovl, .inl rfl⟩) (exec_renderDateOf ovl s)
  · exact viewPass_keepsOrFaults (.inr ⟨ovl, .inr rfl⟩) (exec_renderTimeOf ovl s)

/-- Every operation leaves FAULT or has a cause for its mark: the codec a count above 99, a render an unwritten register. -/
theorem exec_keepsOrFaults (i : Instr) (s : State) : KeepsOrFaults i s := by
  by_cases hi : i = .tick
  · subst hi
    exact .keeps (exec_tick s) (tickCounter_fault s)
  · cases hostOperation_of_ne_tick hi with
    | toBcd n =>
      obtain hn | hn := le_or_gt n.toNat 99
      · obtain ⟨b, hb⟩ := exec_toBcd_le hn
        exact .keeps (hb s) rfl
      · exact .faults (exec_toBcd_gt hn s) (.toBcd hn)
    | dec f b => exact .keeps (exec_decOf f b s) rfl
    | enc f v =>
      by_cases hv : f ≠ .year ∨ v.toNat ≤ 99
      · obtain ⟨c, b, hcommit⟩ := exec_encOf_commits s.params hv
        exact .keeps (hcommit s rfl) rfl
      · obtain ⟨rfl, hgt⟩ : f = .year ∧ 99 < v.toNat := by simpa using hv
        exact .faults (exec_encYear_gt hgt s) (.encYear hgt)
    | render hi => exact isRender_keepsOrFaults hi s
    | setTr f b => exact .keeps (exec_setTrOf f b s) rfl
    | setCtl f view mode => exact .keeps (exec_setCtlOf f view mode s) rfl

/-- Settles O47: an operation that answers another FAULT ended in the mark of one of its causes. -/
theorem faultCauses : Obligations.FaultCauses := by
  refine ⟨fun i s t ht hne => ?_, fun _ => rfl, fun _ => rfl⟩
  obtain ⟨hu, hkeep⟩ | ⟨hu, hcause⟩ := exec_keepsOrFaults i s
  · obtain rfl := Host.Outcome.next.inj (hu.symm.trans ht)
    exact absurd hkeep hne
  · obtain rfl := Host.Outcome.next.inj (hu.symm.trans ht)
    cases hcause with
    | toBcd hn => exact .inl ⟨_, rfl, hn, rfl⟩
    | encYear hv => exact .inr (.inl ⟨_, rfl, hv, rfl⟩)
    | render hi hr hbottom => exact .inr (.inr ⟨hi, _, hr, rfl, hbottom⟩)

/-! ### The outcomes of a step (R220) -/

/-- Settles O11: the word is refused, or it spells an operation, which leaves both marks clear or sets FAULT alone. -/
theorem everyStepHasOneOutcome : Obligations.EveryStepHasOneOutcome := by
  intro s w rest hrun hw
  rw [Scope.step_of_presented hrun hw]
  obtain ⟨hfault, hrefused⟩ := hrun
  obtain ⟨i, hd, hi⟩ | ⟨r, hd, hr⟩ := stepWord_cases w { s with pending := rest }
  · obtain ⟨ht, hkeep⟩ | ⟨ht, -⟩ := exec_keepsOrFaults i { s with pending := rest }
    · have hrunning : State.Running _ := ⟨hkeep.trans hfault, (Runs.exec_keeps_refused ht).trans hrefused⟩
      exact ⟨_, hi.trans ht, .inl ⟨hrunning, i, hd, ht⟩⟩
    · exact ⟨_, hi.trans ht, .inr (.inl ⟨_, rfl, i, hd⟩)⟩
  · exact ⟨_, hr, .inr (.inr ⟨r, rfl, hd⟩)⟩

/-! ### Fail-stop (R223) -/

/-- A state with a mark set has a reason to stop. -/
theorem exists_stopReason {s : State} (h : s.AbnormalEnd) : ∃ f, stopReason s = some f := by
  have hnot : ¬ s.Running := not_and_or.2 h
  exact Option.ne_none_iff_exists'.1 (mt stopReason_eq_none.1 hnot)

/-- A step that has a reason to stop ends in it. -/
theorem step_of_stopReason {s : State} {f : Fault} (h : stopReason s = some f) : step s = .fault f := by
  simp only [step, h]

/-- Settles O10: a mark is a reason to stop, so a step answers a next state from clear marks only, and power-on clears
both. -/
theorem markedStateHasNoStep : Obligations.MarkedStateHasNoStep := by
  refine ⟨fun s hmark => ?_, fun _ _ => running_of_step, fun _ => ⟨rfl, rfl⟩⟩
  obtain ⟨f, hf⟩ := exists_stopReason hmark
  exact ⟨f, step_of_stopReason hf⟩

end Sys2Proof.Proofs.Exceptions
end

section
/-!
PROOFS of the reset's statement (70_reset_and_hazards.md R250): every row of the block is at the value of the reset column of
10_state.md R20.
-/

namespace Sys2Proof.Proofs.Reset

open Sys2Proof.Machine Sys2Proof.Spec

/-- No byte is written in the empty Time Record. -/
theorem read_nil (a : Nat) : Memory.read [] a = none := rfl

/-- The rows are at their reset values whatever the model's own two fields hold: the parameters and the words still to come,
which power-on keeps. -/
theorem atReset_resetWith_pending (p : Params) (ws : List Word) : atReset { State.resetWith p with pending := ws } :=
  ⟨read_nil, rfl, rfl, rfl, rfl, rfl, rfl, rfl, rfl, rfl, rfl, rfl, rfl, rfl⟩

/-- Settles O14: the three resets differ in the parameters and the words still to come alone. -/
theorem powerOnResetValues : Obligations.PowerOnResetValues :=
  ⟨fun p => atReset_resetWith_pending p [], fun s => atReset_resetWith_pending s.params s.pending,
    atReset_resetWith_pending .default []⟩

end Sys2Proof.Proofs.Reset
end

section
/-!
PROOFS of the waiting step (70_reset_and_hazards.md R252, as log entry 2 reads it): a running block to which no word is
presented keeps its state.
-/

namespace Sys2Proof.Proofs.Waiting

open Sys2Proof.Machine

/-- A step without a reason to stop and without a next word answers the state it began in. -/
theorem step_of_no_word {s : State} (hstop : stopReason s = none) (hword : nextWord s = none) : step s = .next s := by
  simp only [step, hstop, hword]

/-- Settles O9: clear marks leave no reason to stop, and no word to come leaves none to present. -/
theorem nothingPresentedWaits : Obligations.NothingPresentedWaits := by
  intro s hrun hpending
  have hstop : stopReason s = none := stopReason_eq_none.2 hrun
  have hword : nextWord s = none := nextWord_nil hpending
  exact step_of_no_word hstop hword

end Sys2Proof.Proofs.Waiting
end
